-- ==== Sys2Proof/Word.lean ====
section
/-! DEFINITION. The bit vectors of the block: datapath words, bytes, command words (00_scope.md R6, R8; 30_encoding.md R72). -/

namespace Sys2Proof

/-- A datapath value, unsigned, 64 bits (00_scope.md R6 `WORD`, 40_arith_primitives.md R100). -/
abbrev Word := BitVec 64

/-- A byte of the input stream, of `PEND` or of `BLK` (20_memory.md R50). -/
abbrev Byte := BitVec 8

/-- A command word `CW = {cmd_data, cmd_len, cmd_op}` (30_encoding.md R72). -/
abbrev CmdWord := BitVec 136

end Sys2Proof
end

