-- ==== Sys2Proof/Config.lean ====
section
/-! DEFINITION. What is fixed for the machine: the constants of the algorithm (00_scope.md R6), the parameters this spec
sets (00_scope.md R7), and the free values, each an opaque constant applied to the draw counter `State.fresh`. -/

namespace Sys2Proof.Config

/-- `C1` (00_scope.md R6). -/
def c1 : Word := 0x87c37b91114253d5
/-- `C2` (00_scope.md R6). -/
def c2 : Word := 0x4cf5ad432745937f
/-- The `h1` addend `N1` (00_scope.md R6). -/
def n1 : Word := 0x52dce729
/-- The `h2` addend `N2` (00_scope.md R6). -/
def n2 : Word := 0x38495ab5
/-- Avalanche multiplier `F1` (00_scope.md R6). -/
def f1 : Word := 0xff51afd7ed558ccd
/-- Avalanche multiplier `F2` (00_scope.md R6). -/
def f2 : Word := 0xc4ceb9fe1a85ec53

/-- `ALLOW_WRITE_AFTER_FINAL` at the value this spec takes (00_scope.md R7, 92_eei_decisions.md D12). What depends on it
is written for both values (`checkWith`, `runWrite`). -/
def allowWriteAfterFinal : Bool := false

/-- `HAS_FINAL64` at the value this spec takes (00_scope.md R7, 92_eei_decisions.md D23). The decoder is written for both
values (`decodeWith`). -/
def hasFinal64 : Bool := true

/-- Free value: `SEED` after a hardware reset (10_state.md R36; log 4). -/
opaque freeSeed : Nat → Word
/-- Free value: `H1` after a hardware reset (10_state.md R36; log 4). -/
opaque freeH1 : Nat → Word
/-- Free value: `H2` after a hardware reset (10_state.md R36; log 4). -/
opaque freeH2 : Nat → Word
/-- Free value: `CONSUMED` after a hardware reset (10_state.md R36; log 4). -/
opaque freeConsumed : Nat → Word
/-- Free value: `PLEN` after a hardware reset (10_state.md R36; log 4). -/
opaque freePlen : Nat → BitVec 4
/-- Free value: byte `i` of `PEND` where no value is defined (10_state.md R23, R36 to R38; log 4, log 5). The first
argument is the draw, the second the index `i`. -/
opaque freePend : Nat → Nat → Byte
/-- Free value: `rsp_data` of a response with `rsp_err = 1` (60_exceptions.md R185; log 6). -/
opaque freeRspData : Nat → BitVec 128

end Sys2Proof.Config
end

