-- ==== Sys2Proof/Syntax.lean ====
section
/-! DEFINITION. The commands, one constructor per row of spec/opcode_table.json (30_encoding.md R70, R74). -/

namespace Sys2Proof

/-- A command. A word that decodes to none of these is ILLEGAL, the decoder's own verdict and no command
(30_encoding.md R75). -/
inductive Instr where
  /-- INIT: construct a session with a seed (41_streaming_control.md R122). -/
  | init (seed : Word)
  /-- WRITE, the row "len 0 to 15": absorb a beat of at most 15 bytes (41_streaming_control.md R124). -/
  | write (beat : List Byte)
  /-- WRITE, the row "len 16": absorb a beat of 16 bytes (41_streaming_control.md R124; log 12). -/
  | write16 (beat : List Byte)
  /-- FINAL: the 128-bit digest (43_tail_finalizer.md R158). -/
  | final
  /-- FINAL64: the first half of the digest (43_tail_finalizer.md R159). -/
  | final64
  /-- RESET: restart with the stored seed (41_streaming_control.md R123). -/
  | reset
  deriving DecidableEq, Repr

/-- `WRITE <bytes>` of the command syntax (30_encoding.md R81): the row of the table that carries so many bytes. -/
def Instr.ofBeat (beat : List Byte) : Instr :=
  if beat.length ≤ 15 then .write beat else .write16 beat

/-- The command is INIT (60_exceptions.md R182). -/
def Instr.isInit : Instr → Bool
  | .init _ => true
  | .write _ => false
  | .write16 _ => false
  | .final => false
  | .final64 => false
  | .reset => false

/-- The command is a WRITE (60_exceptions.md R182). -/
def Instr.isWrite : Instr → Bool
  | .init _ => false
  | .write _ => true
  | .write16 _ => true
  | .final => false
  | .final64 => false
  | .reset => false

end Sys2Proof
end

