-- ==== Sys2Proof/WellFormed.lean ====
section
/-! DEFINITION. Which commands a command word can carry (30_encoding.md R72, R74). -/

namespace Sys2Proof

/-- The beat's length is one that the constructor's row of the opcode table encodes (30_encoding.md R74). Every seed and
every byte value is legal (60_exceptions.md R180). -/
def Instr.wf : Instr → Bool
  | .init _ => true
  | .write beat => decide (beat.length ≤ 15)
  | .write16 beat => decide (beat.length = 16)
  | .final => true
  | .final64 => true
  | .reset => true

end Sys2Proof
end

