-- ==== Sys2Proof/Decode.lean ====
section
/-! DEFINITION. The decoder of command words, total, and the encoder (30_encoding.md R72 to R75, R78). -/

namespace Sys2Proof

/-! ### Fields of the command word (30_encoding.md R72) -/

/-- `op = CW[2:0]`. -/
def cwOp (cw : CmdWord) : BitVec 3 := cw.extractLsb' 0 3

/-- `len = CW[7:3]`. -/
def cwLen (cw : CmdWord) : BitVec 5 := cw.extractLsb' 3 5

/-- `data = CW[135:8]`. -/
def cwData (cw : CmdWord) : BitVec 128 := cw.extractLsb' 8 128

/-- The control byte `CTL = CW[7:0]`. -/
def cwCtl (cw : CmdWord) : Byte := cw.extractLsb' 0 8

/-- `CW = {data, len, op}`. -/
def cwPack (data : BitVec 128) (len : BitVec 5) (op : BitVec 3) : CmdWord := data ++ len ++ op

/-! ### Operands (30_encoding.md R73) -/

/-- Data byte `j`, on `data[8j+7:8j]` (20_memory.md R53). -/
def laneByte (data : BitVec 128) (j : Nat) : Byte := data.extractLsb' (8 * j) 8

/-- The beat: the first `n` data bytes, in input order. -/
def beatOf (data : BitVec 128) (n : Nat) : List Byte := (List.range n).map (laneByte data)

/-- The seed of INIT: `data[63:0]`. -/
def seedOf (data : BitVec 128) : Word := data.extractLsb' 0 64

/-! ### The decoder (30_encoding.md R75) -/

/-- The decoder for either value of `HAS_FINAL64`: with it false, `op = 4` is a reserved opcode
(92_eei_decisions.md D23). `none` is ILLEGAL. -/
def decodeWith (hasFinal64 : Bool) (cw : CmdWord) : Option Instr :=
  let op := cwOp cw
  let len := cwLen cw
  let data := cwData cw
  if op = 1 ∧ len = 0 then some (.init (seedOf data))
  else if op = 2 ∧ len.toNat ≤ 15 then some (.write (beatOf data len.toNat))
  else if op = 2 ∧ len.toNat = 16 then some (.write16 (beatOf data 16))
  else if op = 3 ∧ len = 0 then some .final
  else if op = 4 ∧ len = 0 ∧ hasFinal64 = true then some .final64
  else if op = 5 ∧ len = 0 then some .reset
  else none

/-- The decoder of this block. -/
def decode (cw : CmdWord) : Option Instr := decodeWith Config.hasFinal64 cw

/-! ### The encoder (30_encoding.md R72, R74, R81): data bits a command does not use are zero (log 16) -/

/-- Bytes in lane order, the first in the lowest bits, unused lanes zero. -/
def packBeat : List Byte → BitVec 128
  | [] => 0
  | b :: rest => (packBeat rest <<< 8) ||| b.setWidth 128

/-- The command word of a well-formed command. -/
def encode : Instr → CmdWord
  | .init seed => cwPack (seed.setWidth 128) 0 1
  | .write beat => cwPack (packBeat beat) (BitVec.ofNat 5 beat.length) 2
  | .write16 beat => cwPack (packBeat beat) (BitVec.ofNat 5 beat.length) 2
  | .final => cwPack 0 0 3
  | .final64 => cwPack 0 0 4
  | .reset => cwPack 0 0 5

/-- The command the decoder reads from the table word `w` of `nbits` bits; bits above `nbits` are zero. -/
def decodeTableWord (nbits w : Nat) : Option Instr := decode (BitVec.ofNat 136 (w % 2 ^ nbits))

end Sys2Proof
end

