-- ==== Sys2Proof/Machine/State.lean ====
section
/-! DEFINITION. The state of the block as plain data, and the state right after hardware reset (10_state.md). There is no
memory, no program counter and no mode in it: the block has none (20_memory.md R50, 10_state.md R33, 60_exceptions.md R189). -/

namespace Sys2Proof.Machine

/-- `rsp_kind`: which command a response answers (30_encoding.md R76). -/
inductive RspKind where
  /-- 0: the 128-bit digest, from FINAL. -/
  | digest128
  /-- 1: the 64-bit digest, from FINAL64. -/
  | digest64
  deriving DecidableEq, Repr

/-- One response `(kind, err, data)` (30_encoding.md R76). -/
structure Response where
  /-- `rsp_kind`. -/
  kind : RspKind
  /-- `rsp_err`: the command was refused and `data` carries no digest. -/
  err : Bool
  /-- `rsp_data`. -/
  data : BitVec 128
  deriving DecidableEq, Repr

/-- The input ports as the block samples them at one rising edge of `clk` (30_encoding.md R71). -/
structure PortSample where
  /-- `rst`, active high. -/
  rst : Bool
  /-- `cmd_valid`. -/
  cmdValid : Bool
  /-- `cmd_op`. -/
  cmdOp : BitVec 3
  /-- `cmd_len`. -/
  cmdLen : BitVec 5
  /-- `cmd_data`. -/
  cmdData : BitVec 128
  /-- `rsp_ready`. -/
  rspReady : Bool
  deriving DecidableEq, Repr

/-- The state of the block. -/
structure State where
  /-- What the host drives on the input ports at the coming edges, oldest first; the parameter of the step in
  00_scope.md R11, held here because a step takes a state alone. DESIGN CHOICE (log 1), safe. -/
  ports : List PortSample
  /-- `SEED` (10_state.md R20). -/
  seed : Word
  /-- `H1` (10_state.md R21). -/
  h1 : Word
  /-- `H2` (10_state.md R21). -/
  h2 : Word
  /-- `CONSUMED` (10_state.md R22). -/
  consumed : Word
  /-- `PLEN` (10_state.md R24). -/
  plen : BitVec 4
  /-- `PEND[0]` to `PEND[14]` (10_state.md R23). -/
  pend : Vector Byte 15
  /-- `VALID` (10_state.md R26). -/
  valid : Bool
  /-- `DONE` (10_state.md R27). -/
  done : Bool
  /-- `ERR` (10_state.md R28). -/
  err : Bool
  /-- `ERRCODE` (10_state.md R28). -/
  errcode : BitVec 2
  /-- `RSP`, empty or one response (10_state.md R30). -/
  rsp : Option Response
  /-- How many free values have been drawn: the model's own counter. DESIGN CHOICE (log 7), safe. -/
  fresh : Nat
  deriving DecidableEq, Repr

/-- Why the machine would stop with a fault: it never does. The three faults of the block (60_exceptions.md R181) are
recorded in `ERR` and `ERRCODE` and the block goes on, so each is a next state (log 8). No one raises a fault; safe. -/
inductive Fault where
  deriving DecidableEq, Repr

/-- Why the model would give a command no meaning. -/
inductive Refusal where
  /-- Raised by no arm: every command has its meaning. Safe. -/
  | notModelled (mnemonic : String)
  deriving DecidableEq, Repr

/-- The state right after hardware reset (10_state.md R36): `VALID`, `DONE`, `ERR`, `ERRCODE` 0 and `RSP` empty as the
spec says; the data registers, which the spec leaves unspecified, 0. DESIGN CHOICE (log 3), unsafe. -/
def State.reset : State where
  ports := []
  seed := 0
  h1 := 0
  h2 := 0
  consumed := 0
  plen := 0
  pend := #v[0, 0, 0, 0, 0, 0, 0, 0, 0, 0, 0, 0, 0, 0, 0]
  valid := false
  done := false
  err := false
  errcode := 0
  rsp := none
  fresh := 0

end Sys2Proof.Machine
end

