-- ==== Sys2Proof/Machine/Arith.lean ====
section
/-! DEFINITION. The 64-bit operations of the datapath (40_arith_primitives.md). All are total, none writes a flag and none
can fault (R108). Sum and product are commutative (R101, R102); both are written with the second operand first, so that a
constant in that place is met as the first argument of `+` and `*` on `Nat` and no unfolding counts down from it. -/

namespace Sys2Proof.Machine

/-- `add64` (R101): the sum modulo 2^64. -/
def add64 (a b : Word) : Word := b + a

/-- `mul64` (R102): the product modulo 2^64. -/
def mul64 (a b : Word) : Word := b * a

/-- `xor64` (R103). -/
def xor64 (a b : Word) : Word := a ^^^ b

/-- `rotl64` (R104), for counts 1 to 63. PRESUMED by the spec itself (general knowledge, confirmed by the document's
vectors; log 13). -/
def rotl64 (x : Word) (r : Nat) : Word := (x <<< r) ||| (x >>> (64 - r))

/-- `shr64` (R105): the logical right shift. -/
def shr64 (x : Word) (r : Nat) : Word := x >>> r

/-- `bytepos` (R106): the byte at bits `8i+7:8i` of a word that is zero elsewhere. -/
def bytepos (b : Byte) (i : Nat) : Word := b.setWidth 64 <<< (8 * i)

/-- `mul5add` (R107). -/
def mul5add (h n : Word) : Word := add64 (mul64 h 5) n

end Sys2Proof.Machine
end

