-- ==== Sys2Proof/Machine/Operands.lean ====
section
/-! DEFINITION. The byte spaces `B`, `PEND`, `BLK` and how words and buffer bytes are read and written in them
(20_memory.md R50, R52; 00_scope.md R9). A space is given as the list of its bytes, index 0 first. -/

namespace Sys2Proof.Machine

/-- Byte `i` of a space. No rule reads at or past the end of a space (43_tail_finalizer.md R154); the function is total. -/
def byteAt (space : List Byte) (i : Nat) : Byte := space.getD i 0

/-- `MemRead(S+a, 8)` (20_memory.md R52): eight bytes assembled little-endian. -/
def memRead (space : List Byte) (a : Nat) : Word :=
  (byteAt space a).setWidth 64
    ||| (byteAt space (a + 1)).setWidth 64 <<< 8
    ||| (byteAt space (a + 2)).setWidth 64 <<< 16
    ||| (byteAt space (a + 3)).setWidth 64 <<< 24
    ||| (byteAt space (a + 4)).setWidth 64 <<< 32
    ||| (byteAt space (a + 5)).setWidth 64 <<< 40
    ||| (byteAt space (a + 6)).setWidth 64 <<< 48
    ||| (byteAt space (a + 7)).setWidth 64 <<< 56

/-- `PEND[at + j] <- bytes[j]` for every `j` (41_streaming_control.md R124, steps 1 and 3). There is no `PEND[15]`
(10_state.md R23), so an index past 14 writes nothing; WRITE never forms one. -/
def putBytes (at_ : Nat) (bytes : List Byte) (pend : Vector Byte 15) : Vector Byte 15 :=
  match bytes with
  | [] => pend
  | b :: rest => putBytes (at_ + 1) rest (pend.setIfInBounds at_ b)

/-- A pending buffer in which no byte is defined: every byte a free value of draw `n` (10_state.md R23; log 5). -/
def freeBuffer (n : Nat) : Vector Byte 15 :=
  #v[Config.freePend n 0, Config.freePend n 1, Config.freePend n 2, Config.freePend n 3, Config.freePend n 4,
    Config.freePend n 5, Config.freePend n 6, Config.freePend n 7, Config.freePend n 8, Config.freePend n 9,
    Config.freePend n 10, Config.freePend n 11, Config.freePend n 12, Config.freePend n 13, Config.freePend n 14]

/-- The defined bytes of the pending buffer, `PEND[0 .. PLEN-1]`, oldest first (10_state.md R23). -/
def State.pending (s : State) : List Byte := s.pend.toList.take s.plen.toNat

end Sys2Proof.Machine
end

