-- ==== Sys2Proof/Machine/Flags.lean ====
section
/-! DEFINITION. The status register and the check made before a command executes (10_state.md R29; 60_exceptions.md R181
to R183). No operation of the datapath writes a flag (40_arith_primitives.md R108). -/

namespace Sys2Proof.Machine

/-- `STATUS[4:0] = {ERRCODE, ERR, DONE, VALID}` (10_state.md R29, 30_encoding.md R77). -/
def State.status (s : State) : BitVec 5 :=
  s.errcode ++ BitVec.ofBool s.err ++ BitVec.ofBool s.done ++ BitVec.ofBool s.valid

/-- What the check answers (60_exceptions.md R182). -/
inductive Verdict where
  /-- 0: the command executes. -/
  | proceed
  /-- 1: the word decodes to no command. -/
  | illegal
  /-- 2: no session has been constructed. -/
  | uninit
  /-- 3: a WRITE after the session was finalized. -/
  | seq
  /-- 4: the block is already faulted; never stored in `ERRCODE`. -/
  | faulted
  deriving DecidableEq, Repr

/-- The number 60_exceptions.md R182 gives a verdict. -/
def Verdict.code : Verdict → Nat
  | .proceed => 0
  | .illegal => 1
  | .uninit => 2
  | .seq => 3
  | .faulted => 4

/-- `check(c)` of 60_exceptions.md R182, for either value of `ALLOW_WRITE_AFTER_FINAL`; `none` is ILLEGAL. -/
def checkWith (allow : Bool) (c : Option Instr) (s : State) : Verdict :=
  if s.err then .faulted
  else match c with
    | none => .illegal
    | some i =>
      if !s.valid && !i.isInit then .uninit
      else if s.done && i.isWrite && !allow then .seq
      else .proceed

/-- `check(c)` at the value this spec takes. -/
def check (c : Option Instr) (s : State) : Verdict := checkWith Config.allowWriteAfterFinal c s

/-- `raise Fault(code)` (60_exceptions.md R183): the first fault is recorded, a later one changes nothing. -/
def State.raiseFault (s : State) (v : Verdict) : State :=
  if s.err then s else { s with err := true, errcode := BitVec.ofNat 2 v.code }

end Sys2Proof.Machine
end

