-- ==== Sys2Proof/Machine/Ops.lean ====
section
/-! DEFINITION. The named operations on the state that the meanings share, and how every command executes
(41_streaming_control.md R120, R121; 60_exceptions.md R183, R185; 70_reset_and_hazards.md R200). -/

namespace Sys2Proof.Machine

/-! ### Registers -/

/-- The host's port samples after one has been consumed. -/
def State.setPorts (s : State) (ports : List PortSample) : State := { s with ports := ports }

/-- `SEED <- seed`. -/
def State.setSeed (s : State) (seed : Word) : State := { s with seed := seed }

/-- `(H1, H2) <- acc`. -/
def State.setAcc (s : State) (acc : Word × Word) : State := { s with h1 := acc.1, h2 := acc.2 }

/-- `CONSUMED <- v`. -/
def State.setConsumed (s : State) (v : Word) : State := { s with consumed := v }

/-- `VALID <- v`. -/
def State.setValid (s : State) (v : Bool) : State := { s with valid := v }

/-- `DONE <- v`. -/
def State.setDone (s : State) (v : Bool) : State := { s with done := v }

/-- `PLEN <- 0`: no byte of `PEND` is defined any more (10_state.md R23, R37, R38). The bytes are not cleared
(92_eei_decisions.md D24); what they hold is a free value (log 5), safe. -/
def State.emptyPend (s : State) : State :=
  { s with plen := 0, pend := freeBuffer s.fresh, fresh := s.fresh + 1 }

/-- `PEND[at + j] <- bytes[j]` for every `j`, and `PLEN <- at + n` for the `n` bytes (41_streaming_control.md R124). -/
def State.putPend (s : State) (at_ : Nat) (bytes : List Byte) : State :=
  { s with pend := putBytes at_ bytes s.pend, plen := BitVec.ofNat 4 (at_ + bytes.length) }

/-! ### The response slot (10_state.md R30) -/

/-- `respond(kind, err, data)`: one response fills `RSP`. A command is accepted only while `RSP` is empty
(30_encoding.md R71), so no response is overwritten (log 11). -/
def State.respond (s : State) (r : Response) : State := { s with rsp := some r }

/-- The `err = 1` response of a refused FINAL or FINAL64; its data is a free value (60_exceptions.md R185; log 6), safe. -/
def State.respondRefused (s : State) (kind : RspKind) : State :=
  { s with rsp := some ⟨kind, true, Config.freeRspData s.fresh⟩, fresh := s.fresh + 1 }

/-- The host takes the response; `RSP` becomes empty (30_encoding.md R71). -/
def State.takeRsp (s : State) : State := { s with rsp := none }

/-! ### Hardware reset -/

/-- The event `rst = 1` at a rising edge (70_reset_and_hazards.md R200): the flags are cleared, `RSP` is emptied, and every
other register becomes unspecified, a free value (log 4), safe. A pending response is lost (R201). -/
def State.hardReset (s : State) : State :=
  { s with
    seed := Config.freeSeed s.fresh
    h1 := Config.freeH1 s.fresh
    h2 := Config.freeH2 s.fresh
    consumed := Config.freeConsumed s.fresh
    plen := Config.freePlen s.fresh
    pend := freeBuffer s.fresh
    valid := false
    done := false
    err := false
    errcode := 0
    rsp := none
    fresh := s.fresh + 1 }

/-! ### How every command executes (41_streaming_control.md R120) -/

/-- What a refused command still answers: a FINAL or a FINAL64 its `err = 1` response, any other word nothing
(60_exceptions.md R185). -/
def State.answerRefused (s : State) (c : Option Instr) : State :=
  match c with
  | some .final => s.respondRefused .digest128
  | some .final64 => s.respondRefused .digest64
  | some (.init _) => s
  | some (.write _) => s
  | some (.write16 _) => s
  | some .reset => s
  | none => s

/-- A command whose check answered `v` is refused: the fault is raised, then a FINAL or FINAL64 is answered. -/
def State.refuse (s : State) (c : Option Instr) (v : Verdict) : State := (s.raiseFault v).answerRefused c

/-- The check first, then either the command's own rule `body` or the refusal (41_streaming_control.md R120). -/
def runCommandWith (allow : Bool) (c : Instr) (body : State → State) (s : State) : State :=
  match checkWith allow (some c) s with
  | .proceed => body s
  | .illegal => s.refuse (some c) .illegal
  | .uninit => s.refuse (some c) .uninit
  | .seq => s.refuse (some c) .seq
  | .faulted => s.refuse (some c) .faulted

/-- `runCommandWith` at the value this spec takes for `ALLOW_WRITE_AFTER_FINAL`. -/
def runCommand (c : Instr) (body : State → State) (s : State) : State :=
  runCommandWith Config.allowWriteAfterFinal c body s

/-- An accepted word that decodes to ILLEGAL: `Fault(1)`, or nothing when the block is already faulted; no response
(41_streaming_control.md R120, 60_exceptions.md R181, R182). -/
def runIllegal (s : State) : State := s.refuse none (check none s)

end Sys2Proof.Machine
end

