-- ==== Sys2Proof/Machine/Avalanche.lean ====
section
/-! DEFINITION. The avalanche mix (44_avalanche.md). -/

namespace Sys2Proof.Machine

/-- `k <- xor64(k, shr64(k, 33))`, the step FMIX64 makes three times. -/
def xorShift33 (k : Word) : Word := xor64 k (shr64 k 33)

/-- `FMIX64(k)` (R170). -/
def fmix64 (k : Word) : Word :=
  let k := xorShift33 k
  let k := mul64 k Config.f1
  let k := xorShift33 k
  let k := mul64 k Config.f2
  xorShift33 k

end Sys2Proof.Machine
end

