-- ==== Sys2Proof/Machine/BlockMixer.lean ====
section
/-! DEFINITION. The block mixer (42_block_mixer.md): pure functions on words and on the sixteen bytes of `BLK`. -/

namespace Sys2Proof.Machine

/-- `MIXK1(k)` (R141). -/
def mixK1 (k : Word) : Word :=
  let k := mul64 k Config.c1
  let k := rotl64 k 31
  mul64 k Config.c2

/-- `MIXK2(k)` (R142): the constants change places and the rotation is 33. -/
def mixK2 (k : Word) : Word :=
  let k := mul64 k Config.c2
  let k := rotl64 k 33
  mul64 k Config.c1

/-- `BLOCKMIX(h1, h2, BLK)` (R143). The `h1` path uses the old `h2`, the `h2` path the new `h1` (R144). -/
def blockMix (h1 h2 : Word) (blk : List Byte) : Word × Word :=
  let k1 := memRead blk 0
  let k2 := memRead blk 8
  let h1 := xor64 h1 (mixK1 k1)
  let h1 := rotl64 h1 27
  let h1 := add64 h1 h2
  let h1 := mul5add h1 Config.n1
  let h2 := xor64 h2 (mixK2 k2)
  let h2 := rotl64 h2 31
  let h2 := add64 h2 h1
  let h2 := mul5add h2 Config.n2
  (h1, h2)

/-- BLOCKMIX over the first `n` blocks of `bytes`, in order (43_tail_finalizer.md R162, 10_state.md R41). -/
def foldBlocks (n : Nat) (bytes : List Byte) (acc : Word × Word) : Word × Word :=
  match n with
  | 0 => acc
  | k + 1 => foldBlocks k (bytes.drop 16) (blockMix acc.1 acc.2 (bytes.take 16))

end Sys2Proof.Machine
end

