-- ==== Sys2Proof/Machine/Tail.lean ====
section
/-! DEFINITION. The tail finalizer as pure functions (43_tail_finalizer.md R150 to R157, R162). -/

namespace Sys2Proof.Machine

/-- One rung of the ladder (R153): if `PLEN >= i + 1`, byte `i` is folded into `k` at byte position `pos`. -/
def tailRung (pend : List Byte) (plen i pos : Nat) (k : Word) : Word :=
  if plen ≥ i + 1 then xor64 k (bytepos (byteAt pend i) pos) else k

/-- The `k2` word of the tail: indices 14 down to 8 (R151). -/
def tailK2 (pend : List Byte) (plen : Nat) : Word :=
  let k2 := 0
  let k2 := tailRung pend plen 14 6 k2
  let k2 := tailRung pend plen 13 5 k2
  let k2 := tailRung pend plen 12 4 k2
  let k2 := tailRung pend plen 11 3 k2
  let k2 := tailRung pend plen 10 2 k2
  let k2 := tailRung pend plen 9 1 k2
  tailRung pend plen 8 0 k2

/-- The `k1` word of the tail: indices 7 down to 0 (R152). -/
def tailK1 (pend : List Byte) (plen : Nat) : Word :=
  let k1 := 0
  let k1 := tailRung pend plen 7 7 k1
  let k1 := tailRung pend plen 6 6 k1
  let k1 := tailRung pend plen 5 5 k1
  let k1 := tailRung pend plen 4 4 k1
  let k1 := tailRung pend plen 3 3 k1
  let k1 := tailRung pend plen 2 2 k1
  let k1 := tailRung pend plen 1 1 k1
  tailRung pend plen 0 0 k1

/-- `TAILFOLD(t1, t2, PEND, PLEN)` (R153). The `k2` word is mixed when `PLEN >= 9` (90_conflicts.md C3; log 13), the `k1`
word when `PLEN >= 1`. -/
def tailFold (t1 t2 : Word) (pend : List Byte) (plen : Nat) : Word × Word :=
  let t2 := if plen ≥ 9 then xor64 t2 (mixK2 (tailK2 pend plen)) else t2
  let t1 := if plen ≥ 1 then xor64 t1 (mixK1 (tailK1 pend plen)) else t1
  (t1, t2)

/-- The length fold (R155): the same `L` into both halves. -/
def lengthFold (t1 t2 len : Word) : Word × Word := (xor64 t1 len, xor64 t2 len)

/-- `t1 <- t1 + t2; t2 <- t2 + t1`, the second with the new `t1` (R156). -/
def addPair (t1 t2 : Word) : Word × Word :=
  let t1 := add64 t1 t2
  (t1, add64 t2 t1)

/-- `FINMIX(t1, t2)` (R156). -/
def finMix (t1 t2 : Word) : Word × Word :=
  let t := addPair t1 t2
  addPair (fmix64 t.1) (fmix64 t.2)

/-- The finalization sequence on copies of the accumulator (R150): tail, length, final mix. -/
def finalizeWords (h1 h2 : Word) (tail : List Byte) (plen : Nat) (len : Word) : Word × Word :=
  let t := tailFold h1 h2 tail plen
  let t := lengthFold t.1 t.2 len
  finMix t.1 t.2

/-- The digest function `MM3(s, M)` (R162). -/
def mm3 (seed : Word) (msg : List Byte) : Word × Word :=
  let q := msg.length / 16
  let a := foldBlocks q msg (seed, seed)
  finalizeWords a.1 a.2 (msg.drop (16 * q)) (msg.length % 16) (BitVec.ofNat 64 msg.length)

end Sys2Proof.Machine
end

