-- ==== Sys2Proof/Machine/Session.lean ====
section
/-! DEFINITION. INIT and RESET (41_streaming_control.md R122, R123). -/

namespace Sys2Proof.Machine

/-- What INIT and RESET share: `H1 <- SEED; H2 <- SEED; CONSUMED <- 0; PLEN <- 0; DONE <- 0` (R122, R123). -/
def State.restart (s : State) : State :=
  (((s.setAcc (s.seed, s.seed)).setConsumed 0).emptyPend).setDone false

/-- The pseudocode of INIT (R122). -/
def initBody (seed : Word) (s : State) : State := ((s.setSeed seed).restart).setValid true

/-- The pseudocode of RESET (R123). `SEED`, `VALID`, `ERR`, `ERRCODE`, `RSP` are not written. -/
def resetBody (s : State) : State := s.restart

/-- INIT (R122). -/
def execInit (seed : Word) (s : State) : Host.Outcome State Fault Refusal :=
  .next (runCommand (.init seed) (initBody seed) s)

/-- RESET (R123). -/
def execReset (s : State) : Host.Outcome State Fault Refusal :=
  .next (runCommand .reset resetBody s)

end Sys2Proof.Machine
end

