-- ==== Sys2Proof/Machine/Write.lean ====
section
/-! DEFINITION. WRITE (41_streaming_control.md R124 to R127), for any number of bytes, as its pseudocode is written; the
port delivers at most 16. -/

namespace Sys2Proof.Machine

/-- `(H1, H2) <- BLOCKMIX(H1, H2, BLK)` and `CONSUMED <- add64(CONSUMED, 16)`, the two lines that go together (R124, R129). -/
def State.absorb (s : State) (blk : List Byte) : State :=
  (s.setAcc (blockMix s.h1 s.h2 blk)).setConsumed (add64 s.consumed 16)

/-- Step 2 of WRITE: `n` complete blocks straight from the beat, in input order (R124, R127). -/
def State.absorbBlocks (s : State) (n : Nat) (bytes : List Byte) : State :=
  match n with
  | 0 => s
  | k + 1 => (s.absorb (bytes.take 16)).absorbBlocks k (bytes.drop 16)

/-- Steps 2 and 3 of WRITE, entered with no byte pending: complete blocks are mixed and the leftover becomes the pending
buffer (R124). -/
def writeRest (bytes : List Byte) (s : State) : State :=
  let nblk := bytes.length / 16
  (s.absorbBlocks nblk bytes).putPend 0 (bytes.drop (16 * nblk))

/-- Step 1 of WRITE when the beat completes the block: `BLK` is the pending bytes and the first `missing` bytes of the
beat; it is mixed and the pending buffer is empty (R124). -/
def State.topUp (s : State) (bytes : List Byte) : State :=
  (s.absorb (s.pending ++ bytes.take (16 - s.plen.toNat))).emptyPend

/-- The pseudocode of WRITE (R124). -/
def writeBody (bytes : List Byte) (s : State) : State :=
  if s.plen = 0 then writeRest bytes s
  else if bytes.length < 16 - s.plen.toNat then s.putPend s.plen.toNat bytes
  else writeRest (bytes.drop (16 - s.plen.toNat)) (s.topUp bytes)

/-- WRITE for either value of `ALLOW_WRITE_AFTER_FINAL` (60_exceptions.md R181). -/
def runWrite (allow : Bool) (c : Instr) (bytes : List Byte) (s : State) : State :=
  runCommandWith allow c (writeBody bytes) s

/-- WRITE, a beat of at most 15 bytes (R124). -/
def execWrite (beat : List Byte) (s : State) : Host.Outcome State Fault Refusal :=
  .next (runWrite Config.allowWriteAfterFinal (.write beat) beat s)

/-- WRITE, a beat of 16 bytes (R124). -/
def execWrite16 (beat : List Byte) (s : State) : Host.Outcome State Fault Refusal :=
  .next (runWrite Config.allowWriteAfterFinal (.write16 beat) beat s)

end Sys2Proof.Machine
end

