-- ==== Sys2Proof/Machine/Finalize.lean ====
section
/-! DEFINITION. FINAL and FINAL64 (43_tail_finalizer.md R158 to R160). -/

namespace Sys2Proof.Machine

/-- `L = add64(CONSUMED, zext_64(PLEN))` (10_state.md R40). -/
def State.totalLength (s : State) : Word := add64 s.consumed (s.plen.setWidth 64)

/-- The digest `(h1, h2)` of the bytes written so far, computed on copies (R150, R157). -/
def State.digest (s : State) : Word × Word :=
  finalizeWords s.h1 s.h2 s.pend.toList s.plen.toNat s.totalLength

/-- `data` of FINAL's response: `{h1, h2}` (30_encoding.md R76). -/
def rspData128 (d : Word × Word) : BitVec 128 := d.1 ++ d.2

/-- `data` of FINAL64's response: `{0, h1}` (30_encoding.md R76). -/
def rspData64 (d : Word × Word) : BitVec 128 := d.1.setWidth 128

/-- The pseudocode of FINAL (R158). -/
def finalBody (s : State) : State :=
  (s.setDone true).respond ⟨.digest128, false, rspData128 s.digest⟩

/-- The pseudocode of FINAL64 (R159). -/
def final64Body (s : State) : State :=
  (s.setDone true).respond ⟨.digest64, false, rspData64 s.digest⟩

/-- FINAL (R158). -/
def execFinal (s : State) : Host.Outcome State Fault Refusal :=
  .next (runCommand .final finalBody s)

/-- FINAL64 (R159). -/
def execFinal64 (s : State) : Host.Outcome State Fault Refusal :=
  .next (runCommand .final64 final64Body s)

end Sys2Proof.Machine
end

