-- ==== Sys2Proof/Machine/Ports.lean ====
section
/-! DEFINITION. The ports: what happens at a rising edge of `clk`, and what the output ports show (30_encoding.md R71;
70_reset_and_hazards.md R200, R201). -/

namespace Sys2Proof.Machine

/-- The command word on the command port (30_encoding.md R72). -/
def PortSample.word (p : PortSample) : CmdWord := cwPack p.cmdData p.cmdLen p.cmdOp

/-- `cmd_ready`: 0 while `rst = 1` and while `RSP` is full; commands take no time in the model (log 10). -/
def State.cmdReady (s : State) (rst : Bool) : Bool := !rst && s.rsp.isNone

/-- `rsp_valid`: `RSP` is full and `rst = 0`. -/
def State.rspValid (s : State) (rst : Bool) : Bool := !rst && s.rsp.isSome

/-- The output ports. -/
structure Outputs where
  /-- `cmd_ready`. -/
  cmdReady : Bool
  /-- `rsp_valid`. -/
  rspValid : Bool
  /-- `rsp_kind`, `rsp_err`, `rsp_data`; no value when `rsp_valid = 0` (log 14). -/
  rsp : Option Response
  /-- `status`. -/
  status : BitVec 5
  deriving DecidableEq, Repr

/-- What the output ports show in a state, for the level of `rst` (30_encoding.md R71, R77). -/
def State.outputs (s : State) (rst : Bool) : Outputs :=
  ⟨s.cmdReady rst, s.rspValid rst, if s.rspValid rst then s.rsp else none, s.status⟩

/-- What one rising edge does. -/
inductive Edge where
  /-- Nothing is transferred. -/
  | idle
  /-- Hardware reset. -/
  | reset
  /-- The host takes the response. -/
  | take
  /-- A command word is accepted. -/
  | accept (cw : CmdWord)
  deriving DecidableEq, Repr

/-- Which transfer happens at an edge with the sample `p` (30_encoding.md R71): a command is accepted in exactly the cycles
with `cmd_valid`, `cmd_ready` and not `rst`; a response is taken in exactly those with `rsp_valid` and `rsp_ready`; the two
exclude each other, since `cmd_ready` needs `RSP` empty (DEDUCED, log 17). Reset has priority over both
(70_reset_and_hazards.md R201). -/
def edgeOf (p : PortSample) (s : State) : Edge :=
  if p.rst then .reset
  else if p.cmdValid && s.cmdReady p.rst then .accept p.word
  else if p.rspReady && s.rspValid p.rst then .take
  else .idle

/-- What is left to do after the ports have been looked at. -/
inductive Action where
  /-- The step is over in this state. -/
  | settled (s : State)
  /-- The accepted word, as decoded, executes in this state. -/
  | run (c : Option Instr) (s : State)
  deriving DecidableEq, Repr

/-- One look at the ports. When the host drives nothing more, the block is idle and keeps its state (60_exceptions.md R197). -/
def portAction (s : State) : Action :=
  match s.ports with
  | [] => .settled s
  | p :: rest =>
    match edgeOf p s with
    | .idle => .settled (s.setPorts rest)
    | .reset => .settled (s.setPorts rest).hardReset
    | .take => .settled (s.setPorts rest).takeRsp
    | .accept cw => .run (decode cw) (s.setPorts rest)

/-- A sample in which the host offers the word `cw` and does nothing else. -/
def offer (cw : CmdWord) : PortSample := ⟨false, true, cwOp cw, cwLen cw, cwData cw, false⟩

/-- A sample in which the host takes the response and does nothing else. -/
def takeSample : PortSample := ⟨false, false, 0, 0, 0, true⟩

/-- The state with the word `cw` offered at the next edge and `RSP` empty, so that it is accepted (log 2). -/
def State.offerWord (s : State) (cw : CmdWord) : State :=
  (s.setPorts (offer cw :: s.ports)).takeRsp

end Sys2Proof.Machine
end

