-- ==== Sys2Proof/Machine/Dispatch.lean ====
section
/-! DEFINITION. One arm per command, each a direct call of its meaning. -/

namespace Sys2Proof.Machine

/-- Execution of a decoded, accepted command (41_streaming_control.md R120). -/
def exec (i : Instr) (s : State) : Host.Outcome State Fault Refusal :=
  match i with
  | .init seed => Sys2Proof.Machine.execInit seed s
  | .write beat => Sys2Proof.Machine.execWrite beat s
  | .write16 beat => Sys2Proof.Machine.execWrite16 beat s
  | .final => Sys2Proof.Machine.execFinal s
  | .final64 => Sys2Proof.Machine.execFinal64 s
  | .reset => Sys2Proof.Machine.execReset s

end Sys2Proof.Machine
end

