-- ==== Sys2Proof/Machine/Step.lean ====
section
/-! DEFINITION. One step: a rising edge at which no command is in progress (00_scope.md R10; 30_encoding.md R71). -/

namespace Sys2Proof.Machine

/-- One step. An accepted word that decodes to a command is executed; one that does not is refused as ILLEGAL. -/
def step (s : State) : Host.Outcome State Fault Refusal :=
  match portAction s with
  | .settled t => .next t
  | .run (some i) t => exec i t
  | .run none t => .next (runIllegal t)

/-- `s` with the table word `w` of `nbits` bits offered on the command port at the next edge (log 2). -/
def State.withFetchWord (s : State) (nbits w : Nat) : State :=
  s.offerWord (BitVec.ofNat 136 (w % 2 ^ nbits))

end Sys2Proof.Machine
end

