-- ==== Sys2Proof/Machine/Program.lean ====
section
/-! DEFINITION. Sequences of commands: the pseudo-commands and the printed form (30_encoding.md R81, R82), and their
execution one after the other (20_memory.md R59). -/

namespace Sys2Proof.Machine

/-- `n` WRITE commands of 16 bytes, then one WRITE of what is left if anything is. -/
def writesBlocks (n : Nat) (bytes : List Byte) : List Instr :=
  match n with
  | 0 => match bytes with
    | [] => []
    | b :: rest => [.write (b :: rest)]
  | k + 1 => .write16 (bytes.take 16) :: writesBlocks k (bytes.drop 16)

/-- `WRITES <bytes>` (R82). -/
def writes (bytes : List Byte) : List Instr := writesBlocks (bytes.length / 16) bytes

/-- `HASH128 <seed>, <bytes>` (R82). -/
def hash128 (seed : Word) (bytes : List Byte) : List Instr := .init seed :: (writes bytes ++ [.final])

/-- `HASH64 <seed>, <bytes>` (R82). -/
def hash64 (seed : Word) (bytes : List Byte) : List Instr := .init seed :: (writes bytes ++ [.final64])

/-- The bytes a command writes into the session. -/
def bytesOf : Instr → List Byte
  | .init _ => []
  | .write beat => beat
  | .write16 beat => beat
  | .final => []
  | .final64 => []
  | .reset => []

/-- Commands executed one after the other, each in the state the one before it left (20_memory.md R59). -/
def execAll : List Instr → State → Host.Outcome State Fault Refusal
  | [], s => .next s
  | i :: rest, s =>
    match exec i s with
    | .next t => execAll rest t
    | .fault r => .fault r
    | .refused r => .refused r

/-- `n` hexadecimal digits of `v`, the most significant first. -/
def hexChars : Nat → Nat → List Char
  | 0, _ => []
  | n + 1, v => hexChars n (v / 16) ++ [Nat.digitChar (v % 16)]

/-- The bytes of a beat as R81 writes them: two digits each, separated by spaces, or the word `empty`. -/
def beatChars : List Byte → List Char
  | [] => [' ', 'e', 'm', 'p', 't', 'y']
  | [b] => ' ' :: hexChars 2 b.toNat
  | b :: c :: rest => ' ' :: hexChars 2 b.toNat ++ beatChars (c :: rest)

/-- The characters of a command's textual form (R81); numbers in full-width hexadecimal (log 19). -/
def instrChars : Instr → List Char
  | .init seed => "INIT 0x".toList ++ hexChars 16 seed.toNat
  | .write beat => "WRITE".toList ++ beatChars beat
  | .write16 beat => "WRITE".toList ++ beatChars beat
  | .final => "FINAL".toList
  | .final64 => "FINAL64".toList
  | .reset => "RESET".toList

/-- The characters of `.word <hex>`, any word, legal or not (R81). -/
def wordChars (cw : CmdWord) : List Char := ".word 0x".toList ++ hexChars 34 cw.toNat

/-- A command's textual form. -/
def instrText (i : Instr) : String := String.ofList (instrChars i)

end Sys2Proof.Machine
end

