-- ==== Sys2Proof/Machine/Run.lean ====
section
/-! DEFINITION. A run: what the host may never do in it, which words it gets accepted, when it has ended and what is
observed of it (70_reset_and_hazards.md R209, R210; 30_encoding.md R71). -/

namespace Sys2Proof.Machine

/-! ### The host (70_reset_and_hazards.md R209) -/

/-- The word accepted at the next edge, if any (30_encoding.md R71). -/
def State.acceptedNow (s : State) : Option CmdWord :=
  match s.ports with
  | [] => none
  | p :: _ =>
    match edgeOf p s with
    | .idle => none
    | .reset => none
    | .take => none
    | .accept cw => some cw

/-- The host offers the word `cw` at the next edge. -/
def offersNext (cw : CmdWord) (ports : List PortSample) : Bool :=
  match ports with
  | [] => false
  | p :: _ => p.cmdValid && p.word == cw

/-- The host holds its word at the next edge: if it offers one that is not accepted there, it offers the same word at the
edge after it. To change or withdraw such a word is the move R209 assumes never; R71 and R209 make no exception for an edge
with `rst = 1`, and a host whose samples end there has withdrawn it (DEDUCED, log 20), safe. -/
def State.holdsOffer (s : State) : Bool :=
  match s.ports with
  | [] => true
  | p :: rest => !p.cmdValid || s.acceptedNow.isSome || offersNext p.word rest

/-- In the `n` steps from a state the host makes no move that R209 assumes never. A change of `rst` between two edges is no
sample at all. -/
def hostAllowed : Nat → State → Bool
  | 0, _ => true
  | n + 1, s =>
    s.holdsOffer &&
      match step s with
      | .next t => hostAllowed n t
      | .fault _ => true
      | .refused _ => true

/-- In the `n` steps from a state the host obeys "issue INIT first" (R209, R203): while `VALID = 0` it gets nothing accepted
but INIT. A host that does not is answered with fault 1 or 2 (60_exceptions.md R181). -/
def initFirst : Nat → State → Bool
  | 0, _ => true
  | n + 1, s =>
    (s.valid ||
      match s.acceptedNow with
      | none => true
      | some cw =>
        match decode cw with
        | none => false
        | some i => i.isInit) &&
      match step s with
      | .next t => initFirst n t
      | .fault _ => true
      | .refused _ => true

/-! ### The run (70_reset_and_hazards.md R210) -/

/-- The first step is a hardware reset. -/
def State.startsWithReset (s : State) : Bool :=
  match s.ports with
  | [] => false
  | p :: _ => p.rst

/-- The `n` steps from a state are a run: there is a first step, it is a hardware reset, and the host keeps to R209. Steps that are
neither a hardware reset nor the execution of an accepted command change nothing but `RSP` and the samples. -/
abbrev IsRun (n : Nat) (s : State) : Prop :=
  0 < n ∧ s.startsWithReset = true ∧ hostAllowed n s = true

/-- The words accepted in `n` steps, in order (30_encoding.md R71). -/
def accepted : Nat → State → List CmdWord
  | 0, _ => []
  | n + 1, s =>
    s.acceptedNow.toList ++
      match step s with
      | .next t => accepted n t
      | .fault _ => []
      | .refused _ => []

/-- The run has ended: the host offers no further command and `RSP` is empty. -/
abbrev Ended (s : State) : Prop := (∀ p ∈ s.ports, p.cmdValid = false) ∧ s.rsp = none

/-- The run has ended well. -/
abbrev GoodEnd (s : State) : Prop := Ended s ∧ s.err = false

/-! ### The observation (70_reset_and_hazards.md R210) -/

/-- The response a step from `s` to `t` produced, if any (30_encoding.md R76). -/
def produced (s t : State) : Option Response := if s.rsp.isNone then t.rsp else none

/-- The responses `n` steps produce, in order. -/
def responses : Nat → State → List Response
  | 0, _ => []
  | n + 1, s =>
    match step s with
    | .next t => (produced s t).toList ++ responses n t
    | .fault _ => []
    | .refused _ => []

/-- What a response lets one see: its kind, its `err`, and its data only when `err = 0` (60_exceptions.md R185). -/
abbrev Shown := RspKind × Bool × Option (BitVec 128)

/-- What is seen of a response. -/
def Response.shown (r : Response) : Shown := (r.kind, r.err, if r.err then none else some r.data)

/-- The observation of a run: the responses in order and the final `STATUS`. -/
structure Observation where
  /-- The responses produced, as seen. -/
  responses : List Shown
  /-- `STATUS` after the last step. -/
  status : BitVec 5
  deriving DecidableEq, Repr

/-- The observation of the `n` steps from a state. -/
def observe (n : Nat) (s : State) : Option Observation :=
  match Host.Core.run Sys2Proof.core n s with
  | .next t => some ⟨(responses n s).map Response.shown, t.status⟩
  | .fault _ => none
  | .refused _ => none

/-! ### Words executed one after the other (30_encoding.md R71, its last sentences; 20_memory.md R59) -/

/-- The words executed in order, each offered alone to a block whose `RSP` is empty: the responses, in the order of the
words that produced them, and the last state. -/
def runWords : List CmdWord → State → List Response × State
  | [], s => ([], s)
  | cw :: rest, s =>
    match step ((s.setPorts []).offerWord cw) with
    | .next t => (t.rsp.toList ++ (runWords rest t).1, (runWords rest t).2)
    | .fault _ => ([], s)
    | .refused _ => ([], s)

end Sys2Proof.Machine
end

