-- ==== Sys2Proof/Safety.lean ====
section
/-! DEFINITION. What claims about the block are stated in: the invariants of its registers, the abstract view of a session,
how a step moves it on, and which part of a state is defined (10_state.md R25, R36, R41). Runs stand in Machine/Run.lean. -/

namespace Sys2Proof.Machine

/-- The invariant of the data model (10_state.md R25) and of the flags (R27, R28; 60_exceptions.md R181, R182): the low four
bits of `CONSUMED` are zero in a session; `ERRCODE = 0` exactly when `ERR = 0`; `DONE` needs `VALID`; code 2 was raised
with no session and code 3 in a finalized one, and a faulted block keeps both flags. `PLEN <= 15` is its width. -/
abbrev RegInv (s : State) : Prop :=
  (s.valid = true → s.consumed.extractLsb' 0 4 = 0) ∧
  (s.errcode = 0 ↔ s.err = false) ∧
  (s.done = true → s.valid = true) ∧
  (s.errcode = 2 → s.valid = false) ∧
  (s.errcode = 3 → s.done = true)

/-- The data a response without error carries for the registers of `s` (30_encoding.md R76). -/
def answerData (kind : RspKind) (s : State) : BitVec 128 :=
  match kind with
  | .digest128 => rspData128 s.digest
  | .digest64 => rspData64 s.digest

/-- A waiting response belongs to the session it was asked in: an error response stands in a faulted block, any other in a
finalized session with the digest of the registers as they are (70_reset_and_hazards.md R214, 43_tail_finalizer.md R160). -/
def RspInv (s : State) : Prop :=
  ∀ r, s.rsp = some r →
    (r.err = true ∧ s.err = true) ∨
    (r.err = false ∧ s.valid = true ∧ s.done = true ∧ r.data = answerData r.kind s)

/-- The registers are those of a session with seed `seed` in which the bytes `msg` have been written (10_state.md R41). -/
structure View (seed : Word) (msg : List Byte) (s : State) : Prop where
  /-- `SEED = s`. -/
  seed_eq : s.seed = seed
  /-- `(H1, H2)` is BLOCKMIX folded over the complete blocks, from `(s, s)`. -/
  acc_eq : (s.h1, s.h2) = foldBlocks (msg.length / 16) msg (seed, seed)
  /-- `CONSUMED = 16 * floor(|M| / 16)`, modulo 2^64 (R22). -/
  consumed_eq : s.consumed = BitVec.ofNat 64 (16 * (msg.length / 16))
  /-- `PLEN = |M| mod 16`. -/
  plen_eq : s.plen.toNat = msg.length % 16
  /-- `PEND[i] = M[CONSUMED + i]` for `i < PLEN`. -/
  pending_eq : s.pending = msg.drop (16 * (msg.length / 16))

/-- The session a state stands for: none while `VALID = 0`, else the seed and the bytes written (10_state.md R26, R41). -/
def SessionIs (session : Option (Word × List Byte)) (s : State) : Prop :=
  match session with
  | none => s.valid = false
  | some (seed, msg) => s.valid = true ∧ View seed msg s

/-- The session after a command has executed (41_streaming_control.md R122, R123, R130; 43_tail_finalizer.md R160). -/
def sessionAfterCommand (i : Instr) (session : Option (Word × List Byte)) : Option (Word × List Byte) :=
  match i with
  | .init seed => some (seed, [])
  | .write beat => session.map fun (seed, msg) => (seed, msg ++ beat)
  | .write16 beat => session.map fun (seed, msg) => (seed, msg ++ beat)
  | .final => session
  | .final64 => session
  | .reset => session.map fun (seed, _) => (seed, [])

/-- The session after the next step: a hardware reset leaves none, a command that executes moves it on, a refused word, a
response taken and an idle edge leave it (10_state.md R41; 60_exceptions.md R183; 70_reset_and_hazards.md R200). -/
def sessionAfterStep (s : State) (session : Option (Word × List Byte)) : Option (Word × List Byte) :=
  match s.ports with
  | [] => session
  | p :: _ =>
    match edgeOf p s with
    | .idle => session
    | .take => session
    | .reset => none
    | .accept cw =>
      match decode cw with
      | none => session
      | some i => if check (some i) s = .proceed then sessionAfterCommand i session else session

/-- A command is legal in a state: it is not refused (60_exceptions.md R182). -/
abbrev Legal (i : Instr) (s : State) : Prop := check (some i) s = .proceed

/-- The data registers with a defined value are equal: `PEND` below `PLEN` (10_state.md R23), the others whole. -/
structure SameData (s t : State) : Prop where
  /-- `SEED`. -/
  seed_eq : s.seed = t.seed
  /-- `H1`. -/
  h1_eq : s.h1 = t.h1
  /-- `H2`. -/
  h2_eq : s.h2 = t.h2
  /-- `CONSUMED`. -/
  consumed_eq : s.consumed = t.consumed
  /-- `PLEN`. -/
  plen_eq : s.plen = t.plen
  /-- `PEND[0 .. PLEN-1]`. -/
  pending_eq : s.pending = t.pending

/-- Two states agree on everything that has a defined value: the flags, what `RSP` shows, what the host will do, and, while
a session is open, the data registers (10_state.md R23, R36). -/
structure SameDefined (s t : State) : Prop where
  /-- The host's samples. -/
  ports_eq : s.ports = t.ports
  /-- `VALID`. -/
  valid_eq : s.valid = t.valid
  /-- `DONE`. -/
  done_eq : s.done = t.done
  /-- `ERR`. -/
  err_eq : s.err = t.err
  /-- `ERRCODE`. -/
  errcode_eq : s.errcode = t.errcode
  /-- `RSP`, but for undefined data. -/
  rsp_eq : s.rsp.map Response.shown = t.rsp.map Response.shown
  /-- The data registers, while `VALID = 1`. -/
  data_eq : s.valid = true → SameData s t

end Sys2Proof.Machine
end

