-- ==== Sys2Proof/Certificates/Slice0/Obligations.lean ====
section
/-! DEFINITION. The statements for the provers. Each docstring names the rules of spec/ it formalises. -/

namespace Sys2Proof.Certificates.Slice0

open Sys2Proof.Machine

/-- A command of one of the two WRITE rows, carrying `beat` (30_encoding.md R74). -/
abbrev WriteOf (i : Instr) (beat : List Byte) : Prop :=
  (i = .write beat ∧ beat.length ≤ 15) ∨ (i = .write16 beat ∧ beat.length = 16)

/-- The condition under which a WRITE executes (60_exceptions.md R182). -/
abbrev WriteReady (s : State) : Prop := s.err = false ∧ s.valid = true ∧ s.done = false

/-- Every command of the list is a well-formed WRITE. -/
abbrev AllWrites (cs : List Instr) : Prop := ∀ c ∈ cs, c.isWrite = true ∧ c.wf = true

/-- What no WRITE, FINAL or refusal of a session touches but `DONE` and `RSP`: the data registers and the host's samples. -/
abbrev SameRegisters (s t : State) : Prop :=
  t.ports = s.ports ∧ t.seed = s.seed ∧ t.h1 = s.h1 ∧ t.h2 = s.h2 ∧ t.consumed = s.consumed ∧ t.plen = s.plen ∧ t.pend = s.pend

end Sys2Proof.Certificates.Slice0

open Sys2Proof Sys2Proof.Machine Sys2Proof.Certificates.Slice0

/-! ### The ports and the step -/

/-- 41_streaming_control.md R120 with 30_encoding.md R71: an accepted word that decodes to a command is executed, and the
step adds nothing to `exec` but the host's sample consumed; the command it executes is well-formed. -/
def Obligations.StepRunsDecodedCommand : Prop :=
  ∀ (s : State) (p : PortSample) (rest : List PortSample) (i : Instr),
    s.ports = p :: rest → p.rst = false → p.cmdValid = true → s.rsp = none → decode p.word = some i →
      i.wf = true ∧ step s = exec i (s.setPorts rest)

/-- 30_encoding.md R78, 60_exceptions.md R181, R183: an accepted illegal word sets `ERR`, records code 1 if it is the first
fault, changes nothing else and produces no response. -/
def Obligations.StepRefusesIllegalWord : Prop :=
  ∀ (s : State) (p : PortSample) (rest : List PortSample),
    s.ports = p :: rest → p.rst = false → p.cmdValid = true → s.rsp = none → decode p.word = none →
      step s = .next { s with ports := rest, err := true, errcode := if s.err then s.errcode else 1 }

/-- 30_encoding.md R71: at an edge a command is accepted exactly when `cmd_valid = 1`, `RSP` is empty and `rst = 0`; a
response is taken exactly when `rsp_ready = 1`, `RSP` is full and `rst = 0`. -/
def Obligations.EdgeTransfersExactly : Prop :=
  ∀ (s : State) (p : PortSample),
    (∀ cw, edgeOf p s = .accept cw ↔ p.rst = false ∧ p.cmdValid = true ∧ s.rsp = none ∧ cw = p.word) ∧
    (edgeOf p s = .take ↔ p.rst = false ∧ p.rspReady = true ∧ s.rsp ≠ none) ∧
    (edgeOf p s = .reset ↔ p.rst = true)

/-- 70_reset_and_hazards.md R200, R201: with `rst = 1` no offered command is accepted (what else the host drives makes no
difference to anything defined), a waiting response is lost, the flags are cleared, `cmd_ready` and `rsp_valid` are 0, and
the block is then ready for INIT. Nothing is said of the other registers, which become unspecified. Nothing else clears
`ERR`. -/
def Obligations.HardwareResetHasPriority : Prop :=
  (∀ (s : State) (p : PortSample) (rest : List PortSample),
    s.ports = p :: rest → p.rst = true →
      (∃ t, step s = .next t ∧ t.ports = rest ∧ t.rsp = none ∧
        t.valid = false ∧ t.done = false ∧ t.err = false ∧ t.errcode = 0 ∧
        ∀ seed, check (some (.init seed)) t = .proceed) ∧
      (∀ q : PortSample, q.rst = true →
        ∃ t u, step s = .next t ∧ step (s.setPorts (q :: rest)) = .next u ∧ SameDefined t u) ∧
      (∀ cw, edgeOf p s ≠ .accept cw) ∧
      (s.outputs p.rst).cmdReady = false ∧ (s.outputs p.rst).rspValid = false) ∧
  (∀ s t : State, s.err = true → step s = .next t → t.err = false →
    ∃ p rest, s.ports = p :: rest ∧ p.rst = true)

/-- 10_state.md R30, 70_reset_and_hazards.md R208, R214: a waiting response is never overwritten. Without `rst` a step
either leaves it, or empties the slot when the host is ready, and changes no register and no flag. -/
def Obligations.WaitingResponseIsKept : Prop :=
  ∀ (s t : State) (p : PortSample) (rest : List PortSample) (r : Response),
    s.rsp = some r → s.ports = p :: rest → p.rst = false → step s = .next t →
      t = { s with ports := rest, rsp := if p.rspReady then none else some r }

/-- 41_streaming_control.md R121 ("every command completes"): from every state, a step answers a next state. -/
def Obligations.EveryStepCompletes : Prop := ∀ s : State, ∃ t, step s = .next t

/-- 60_exceptions.md R197, 70_reset_and_hazards.md R211: an edge at which the host offers nothing and there is nothing for it
to take leaves everything as it was; so does a step when the host drives nothing more (log 1). -/
def Obligations.IdleEdgeKeepsState : Prop :=
  (∀ s : State, s.ports = [] → step s = .next s) ∧
  (∀ (s : State) (p : PortSample) (rest : List PortSample),
    s.ports = p :: rest → p.rst = false → p.cmdValid = false → (p.rspReady = false ∨ s.rsp = none) →
      step s = .next (s.setPorts rest))

/-! ### Encoding -/

/-- 30_encoding.md R72 to R75, R81: decoding the word of a well-formed command gives it back, whatever its operands. -/
def Obligations.DecodeOfEncode : Prop := ∀ i : Instr, i.wf = true → decode (encode i) = some i

/-- 30_encoding.md R84: the worked command words, legal and illegal, decode as the table says. -/
def Obligations.WorkedWordsDecode : Prop :=
  decode 0x0000000000000000000000000000000001 = some (.init 0) ∧
  decode 0x00000000000000000123456789abcdef01 = some (.init 0x0123456789abcdef) ∧
  decode 0x0000000000000000000000000000000002 = some (.write []) ∧
  decode 0x000000000000000000000000000000310a = some (.write [0x31]) ∧
  decode 0x000000000000000000000035343332312a = some (.write [0x31, 0x32, 0x33, 0x34, 0x35]) ∧
  decode 0x000000000031666564636261393837365a =
    some (.write [0x36, 0x37, 0x38, 0x39, 0x61, 0x62, 0x63, 0x64, 0x65, 0x66, 0x31]) ∧
  decode 0x0f0e0d0c0b0a0908070605040302010082 =
    some (.write16 [0, 1, 2, 3, 4, 5, 6, 7, 8, 9, 10, 11, 12, 13, 14, 15]) ∧
  decode 0x0000000000000000000000000000000003 = some .final ∧
  decode 0x0000000000000000000000000000000004 = some .final64 ∧
  decode 0x0000000000000000000000000000000005 = some .reset ∧
  decode 0x0000000000000000000000000000000000 = none ∧
  decode 0x0000000000000000000000000000000007 = none ∧
  decode 0x000000000000000000000000000000008a = none ∧
  decode 0x000000000000000000000000000000000b = none

/-- 30_encoding.md R74 and spec/opcode_table.json: a word matches a row's match and mask exactly when it decodes to that
row's command, and a word that matches no row is illegal. -/
def Obligations.OpcodeRowsMatch : Prop :=
  ∀ cw : CmdWord,
    (cw &&& 0xFF = 0x01 ↔ ∃ seed, decode cw = some (.init seed)) ∧
    (cw &&& 0x87 = 0x02 ↔ ∃ beat, decode cw = some (.write beat)) ∧
    (cw &&& 0xFF = 0x82 ↔ ∃ beat, decode cw = some (.write16 beat)) ∧
    (cw &&& 0xFF = 0x03 ↔ decode cw = some .final) ∧
    (cw &&& 0xFF = 0x04 ↔ decode cw = some .final64) ∧
    (cw &&& 0xFF = 0x05 ↔ decode cw = some .reset) ∧
    (decode cw = none ↔ cw &&& 0xFF ≠ 0x01 ∧ cw &&& 0x87 ≠ 0x02 ∧ cw &&& 0xFF ≠ 0x82 ∧ cw &&& 0xFF ≠ 0x03 ∧
      cw &&& 0xFF ≠ 0x04 ∧ cw &&& 0xFF ≠ 0x05)

/-- 30_encoding.md R78: which words are illegal, and that executing one raises `Fault(1)` and changes no data state. -/
def Obligations.IllegalWordsExactly : Prop :=
  (∀ cw : CmdWord,
    decode cw = none ↔
      (cwOp cw = 0 ∨ cwOp cw = 6 ∨ cwOp cw = 7) ∨
      ((cwOp cw = 1 ∨ cwOp cw = 3 ∨ cwOp cw = 4 ∨ cwOp cw = 5) ∧ cwLen cw ≠ 0) ∨
      (cwOp cw = 2 ∧ 17 ≤ (cwLen cw).toNat)) ∧
  (∀ (cw : CmdWord) (s : State), decode cw = none → s.rsp = none →
    step ((s.setPorts [offer cw])) =
      .next { s with ports := [], err := true, errcode := if s.err then s.errcode else 1 })

/-- 30_encoding.md R73, R79, 20_memory.md R53: the ignored bits may hold anything. Two words with one control byte decode
alike when they agree on `data[63:0]` (INIT), on the bytes below `len` (WRITE), on nothing more (the others). -/
def Obligations.IgnoredBitsHaveNoEffect : Prop :=
  ∀ v w : CmdWord, cwCtl v = cwCtl w →
    (cwOp v = 1 → seedOf (cwData v) = seedOf (cwData w)) →
    (cwOp v = 2 → ∀ j, j < (cwLen v).toNat → laneByte (cwData v) j = laneByte (cwData w) j) →
      decode v = decode w

/-- 30_encoding.md R72, R73: what the decoder answers is well-formed, and its own word has the same control byte. -/
def Obligations.DecodedCommandsReencode : Prop :=
  ∀ (cw : CmdWord) (i : Instr), decode cw = some i → i.wf = true ∧ cwCtl (encode i) = cwCtl cw

/-- 30_encoding.md R82: `WRITES` expands to well-formed WRITEs that carry the bytes in order, one for every 16 bytes or part
of 16 bytes. -/
def Obligations.WritesExpansion : Prop :=
  ∀ bytes : List Byte,
    AllWrites (writes bytes) ∧ (writes bytes).flatMap bytesOf = bytes ∧ (writes bytes).length = (bytes.length + 15) / 16

/-! ### Arithmetic and byte order -/

/-- 40_arith_primitives.md R101, R102: the sum and the product of the natural numbers, modulo 2^64. -/
def Obligations.AddMulWrap : Prop :=
  ∀ a b : Word, (add64 a b).toNat = (a.toNat + b.toNat) % 2 ^ 64 ∧ (mul64 a b).toNat = (a.toNat * b.toNat) % 2 ^ 64

/-- 40_arith_primitives.md R104 (the definition is the spec's own addition from general knowledge; log 13): bit `i` of the
operand goes to bit `(i + r) mod 64`. -/
def Obligations.RotateMovesEveryBit : Prop :=
  ∀ (x : Word) (r i : Nat), 1 ≤ r → r ≤ 63 → i < 64 → (rotl64 x r).getLsbD ((i + r) % 64) = x.getLsbD i

/-- 40_arith_primitives.md R105, R106: the logical shift is the floor of the division, and a placed byte stands at its
position alone. -/
def Obligations.ShiftAndBytePosition : Prop :=
  (∀ x : Word, (shr64 x 33).toNat = x.toNat / 2 ^ 33) ∧
  (∀ (b : Byte) (i : Nat), i ≤ 7 → (bytepos b i).toNat = b.toNat * 2 ^ (8 * i))

/-- 20_memory.md R52, 42_block_mixer.md R145: bits `8j+7:8j` of a word read from a byte space are byte `a + j` of it. -/
def Obligations.MemReadIsLittleEndian : Prop :=
  ∀ (space : List Byte) (a j : Nat), j < 8 → (memRead space a).extractLsb' (8 * j) 8 = byteAt space (a + j)

/-- 40_arith_primitives.md R110: the product from 16-bit limbs, ten partial products. -/
def Obligations.MulFromLimbs : Prop :=
  ∀ (a b : Word) (a0 a1 a2 a3 b0 b1 b2 b3 : Nat),
    a.toNat = a3 * 2 ^ 48 + a2 * 2 ^ 32 + a1 * 2 ^ 16 + a0 → b.toNat = b3 * 2 ^ 48 + b2 * 2 ^ 32 + b1 * 2 ^ 16 + b0 →
      (mul64 a b).toNat =
        (a0 * b0 + (a0 * b1 + a1 * b0) * 2 ^ 16 + (a0 * b2 + a1 * b1 + a2 * b0) * 2 ^ 32 +
          (a0 * b3 + a1 * b2 + a2 * b1 + a3 * b0) * 2 ^ 48) % 2 ^ 64

/-! ### The block mixer, the avalanche and the tail -/

/-- 40_arith_primitives.md R111, 44_avalanche.md R172: the scramblers and the avalanche are bijections that map 0 to 0. -/
def Obligations.ScramblersAreBijections : Prop :=
  (Function.Bijective mixK1 ∧ mixK1 0 = 0) ∧ (Function.Bijective mixK2 ∧ mixK2 0 = 0) ∧
  (Function.Bijective fmix64 ∧ fmix64 0 = 0)

/-- 40_arith_primitives.md R111 (d): for a fixed `h2` and block, BLOCKMIX is a bijection in `h1`. -/
def Obligations.BlockMixBijectiveInH1 : Prop :=
  ∀ (h2 : Word) (blk : List Byte), Function.Bijective fun h1 => (blockMix h1 h2 blk).1

/-- 42_block_mixer.md R143, R144: the two paths in terms of the words of the block; the `h2` path adds the new `h1`. -/
def Obligations.BlockMixPaths : Prop :=
  ∀ (h1 h2 : Word) (blk : List Byte),
    (blockMix h1 h2 blk).1 =
      add64 (mul64 (add64 (rotl64 (xor64 h1 (mixK1 (memRead blk 0))) 27) h2) 5) 0x52dce729 ∧
    (blockMix h1 h2 blk).2 =
      add64 (mul64 (add64 (rotl64 (xor64 h2 (mixK2 (memRead blk 8))) 31) (blockMix h1 h2 blk).1) 5) 0x38495ab5

/-- 43_tail_finalizer.md R151 to R154: the ladder is the decoding of the pending bytes followed by zeros, and it does not
depend on a byte at or past `PLEN`. -/
def Obligations.TailFoldClosedForm : Prop :=
  ∀ (t1 t2 : Word) (pend : List Byte) (plen : Nat), plen ≤ 15 → plen ≤ pend.length →
    tailFold t1 t2 pend plen =
      (xor64 t1 (mixK1 (memRead (pend.take plen ++ List.replicate (16 - plen) 0) 0)),
       xor64 t2 (mixK2 (memRead (pend.take plen ++ List.replicate (16 - plen) 0) 8)))

/-- 43_tail_finalizer.md R156: a pair of additions leaves `a + b` and `a + 2b`; FINMIX is such a pair, FMIX64 on each half,
and such a pair. -/
def Obligations.FinalMixStages : Prop :=
  (∀ a b : Word, addPair a b = (a + b, a + 2 * b)) ∧
  (∀ a b : Word, finMix a b =
    (fmix64 (a + b) + fmix64 (a + 2 * b), fmix64 (a + b) + 2 * fmix64 (a + 2 * b)))

/-- 10_state.md R40: the total length never carries; it is `{CONSUMED[63:4], PLEN}`. -/
def Obligations.TotalLengthIsConcatenation : Prop :=
  ∀ s : State, s.consumed.extractLsb' 0 4 = 0 →
    s.totalLength = (s.consumed.extractLsb' 4 60 ++ s.plen : BitVec (60 + 4))

/-- 43_tail_finalizer.md R163: the digest of the empty input. -/
def Obligations.EmptyInputDigest : Prop :=
  (∀ seed : Word, mm3 seed [] = finMix seed seed) ∧ mm3 0 [] = (0, 0) ∧
  mm3 1 [] = (0x4610abe56eff5cb5, 0x51622daa78f83583)

/-! ### INIT and RESET -/

/-- 10_state.md R37 (41_streaming_control.md R122): the state after INIT, whole, from every state that is not faulted.
Nothing is said of `PEND`, which is unspecified, nor of the model's own counter. Every field not named keeps its value. -/
def Obligations.InitConstructsSession : Prop :=
  ∀ (seed : Word) (s : State), s.err = false →
    ∃ pend fresh, exec (.init seed) s = .next { s with
      seed := seed, h1 := seed, h2 := seed, consumed := 0, plen := 0, valid := true, done := false,
      pend := pend, fresh := fresh }

/-- 10_state.md R38 (41_streaming_control.md R123): the state after RESET, whole, from every state with a session and no
fault; it is the state after INIT with the stored seed. Nothing is said of `PEND`, which is unspecified, nor of the model's
own counter. Every field not named keeps its value. -/
def Obligations.ResetRestartsSession : Prop :=
  ∀ s : State, s.err = false → s.valid = true →
    (∃ pend fresh, exec .reset s = .next { s with
      h1 := s.seed, h2 := s.seed, consumed := 0, plen := 0, done := false, pend := pend, fresh := fresh }) ∧
    (∃ t u, exec .reset s = .next t ∧ exec (.init s.seed) s = .next u ∧ SameDefined t u)

/-- 41_streaming_control.md R134 (the spec's own inference, marked derived there): RESET followed by any WRITEs leaves the
same defined registers, the same status and the same digest as INIT with the stored seed followed by them. -/
def Obligations.ResetEquivalence : Prop :=
  ∀ (s : State) (cs : List Instr), s.err = false → s.valid = true → AllWrites cs →
    ∃ t u, execAll (.reset :: cs) s = .next t ∧ execAll (.init s.seed :: cs) s = .next u ∧
      SameDefined t u ∧ t.status = u.status ∧
      t.digest = mm3 s.seed (cs.flatMap bytesOf) ∧ u.digest = mm3 s.seed (cs.flatMap bytesOf)

/-! ### WRITE -/

/-- 41_streaming_control.md R125 (R124): the cases of WRITE, from every state in which it executes, for every beat of both
rows, and its frame: SEED, the flags, `RSP` and the host's samples are unchanged. -/
def Obligations.WriteCases : Prop :=
  ∀ (i : Instr) (beat : List Byte) (s : State), WriteOf i beat → WriteReady s →
    ∃ t, exec i s = .next t ∧
      t.plen.toNat = (s.plen.toNat + beat.length) % 16 ∧
      (s.plen.toNat + beat.length < 16 →
        t.h1 = s.h1 ∧ t.h2 = s.h2 ∧ t.consumed = s.consumed ∧ t.pending = s.pending ++ beat) ∧
      (16 ≤ s.plen.toNat + beat.length →
        (t.h1, t.h2) = blockMix s.h1 s.h2 (s.pending ++ beat.take (16 - s.plen.toNat)) ∧
        t.consumed = s.consumed + 16 ∧ t.pending = beat.drop (16 - s.plen.toNat)) ∧
      t.ports = s.ports ∧ t.seed = s.seed ∧ t.valid = s.valid ∧ t.done = s.done ∧ t.err = s.err ∧
      t.errcode = s.errcode ∧ t.rsp = s.rsp

/-- 41_streaming_control.md R126: the empty beat is legal and changes no state at all. -/
def Obligations.EmptyWriteChangesNothing : Prop := ∀ s : State, WriteReady s → exec (.write []) s = .next s

/-- 41_streaming_control.md R130: a WRITE that executes extends the session's message by its beat, whatever the seed, the
message and the beat. -/
def Obligations.WriteExtendsMessage : Prop :=
  ∀ (seed : Word) (msg beat : List Byte) (i : Instr) (s : State),
    View seed msg s → WriteOf i beat → WriteReady s → ∃ t, exec i s = .next t ∧ View seed (msg ++ beat) t ∧ WriteReady t

/-- 41_streaming_control.md R133: two sequences of WRITEs whose bytes concatenate to the same leave the same defined
registers and the same flags, from every state in which a WRITE executes. -/
def Obligations.StreamingEquivalence : Prop :=
  ∀ (s : State) (cs ds : List Instr), WriteReady s → AllWrites cs → AllWrites ds →
    cs.flatMap bytesOf = ds.flatMap bytesOf →
      ∃ t u, execAll cs s = .next t ∧ execAll ds s = .next u ∧ SameData t u ∧ t.status = u.status ∧ t.rsp = u.rsp

/-- 10_state.md R27, 60_exceptions.md R181, 92_eei_decisions.md D12: with `ALLOW_WRITE_AFTER_FINAL` true, a WRITE in a
finalized session continues the stream as it would in one that is not, and `DONE` stays 1. -/
def Obligations.WriteAfterFinalWhenAllowed : Prop :=
  ∀ (c : Instr) (beat : List Byte) (s : State), c.isWrite = true → s.err = false → s.valid = true → s.done = true →
    runWrite true c beat s = writeBody beat s ∧ (writeBody beat s).done = true ∧
    runWrite false c beat s = { s with err := true, errcode := 3 }

/-! ### FINAL and FINAL64 -/

/-- 43_tail_finalizer.md R160 (R158, R159, R150): FINAL and FINAL64 from every state with a session and no fault: `DONE`
is set, the response is `(0, 0, {h1, h2})` or `(1, 0, {0, h1})` with `(h1, h2)` the finalization of the registers, and
nothing else changes. -/
def Obligations.FinalizeAnswersDigest : Prop :=
  ∀ s : State, s.err = false → s.valid = true →
    exec .final s = .next { s with done := true, rsp := some ⟨.digest128, false, s.digest.1 ++ s.digest.2⟩ } ∧
    exec .final64 s = .next { s with done := true, rsp := some ⟨.digest64, false, (0 : Word) ++ s.digest.1⟩ } ∧
    s.digest =
      (let t := tailFold s.h1 s.h2 s.pend.toList s.plen.toNat
       finMix (t.1 ^^^ (s.consumed + s.plen.setWidth 64)) (t.2 ^^^ (s.consumed + s.plen.setWidth 64)))

/-- 43_tail_finalizer.md R162: in a session with seed `seed` and message `msg`, FINAL answers `MM3(seed, msg)` and FINAL64
its first half. -/
def Obligations.FinalAnswersMM3 : Prop :=
  ∀ (seed : Word) (msg : List Byte) (s : State), View seed msg s → s.err = false → s.valid = true →
    (∃ t, exec .final s = .next t ∧ View seed msg t ∧
      t.rsp = some ⟨.digest128, false, (mm3 seed msg).1 ++ (mm3 seed msg).2⟩) ∧
    (∃ t, exec .final64 s = .next t ∧ View seed msg t ∧
      t.rsp = some ⟨.digest64, false, (0 : Word) ++ (mm3 seed msg).1⟩)

/-- 43_tail_finalizer.md R161: FINAL and FINAL64 may be repeated; once the host has taken the response, a second one answers
what it would have answered at first, and the registers are as they were. -/
def Obligations.FinalizeRepeats : Prop :=
  ∀ (s t : State) (f g : Instr), s.err = false → s.valid = true → s.rsp = none →
    (f = .final ∨ f = .final64) → (g = .final ∨ g = .final64) → exec f s = .next t →
      ∃ u v, exec g t.takeRsp = .next u ∧ exec g s = .next v ∧ u.rsp = v.rsp ∧ u.digest = s.digest ∧
        SameRegisters s u

/-- 00_scope.md R12: from every state that keeps the invariant `RegInv`, with no fault and an empty slot, the host offering INIT, any WRITEs and FINAL at
successive edges and then taking the response keeps to 70_reset_and_hazards.md R209, ends well, and observes exactly one
response, `err = 0`, with the MurmurHash3 x64-128 digest of the bytes, however they were cut. -/
def Obligations.HashOfAnyCutting : Prop :=
  ∀ (s : State) (seed : Word) (cs : List Instr), RegInv s → s.err = false → s.rsp = none → AllWrites cs →
    s.ports = (.init seed :: (cs ++ [.final])).map (fun i => offer (encode i)) ++ [takeSample] →
      (∃ t, Host.Core.run Sys2Proof.core (cs.length + 3) s = .next t ∧ t.ports = [] ∧ GoodEnd t) ∧
      hostAllowed (cs.length + 3) s = true ∧
      observe (cs.length + 3) s =
        some ⟨[(.digest128, false,
          some ((mm3 seed (cs.flatMap bytesOf)).1 ++ (mm3 seed (cs.flatMap bytesOf)).2))], 0b00011⟩

/-! ### Runs (70_reset_and_hazards.md R209, R210): every statement has the host keep to R209 as a premise -/

/-- 30_encoding.md R71, 70_reset_and_hazards.md R209: a word once offered is the next word accepted. -/
def Obligations.OfferedWordIsTheOneAccepted : Prop :=
  ∀ (n : Nat) (s : State) (p : PortSample) (rest : List PortSample) (cw : CmdWord),
    hostAllowed n s = true → s.ports = p :: rest → p.cmdValid = true → (accepted n s).head? = some cw → cw = p.word

/-- 30_encoding.md R71, its last sentences: however the host paces its words and its readiness, the steps execute the
accepted words one after the other, in order, and produce their responses in that order. Only what is defined is compared:
the responses as they are seen, and of the states all but the samples, `RSP` and what the spec leaves unspecified. -/
def Obligations.RunExecutesAcceptedWordsInOrder : Prop :=
  ∀ (n : Nat) (s : State), hostAllowed n s = true → (∀ p ∈ s.ports.take n, p.rst = false) →
    ∃ t, Host.Core.run Sys2Proof.core n s = .next t ∧
      (responses n s).map Response.shown = (runWords (accepted n s) s).1.map Response.shown ∧
      SameDefined (t.setPorts []).takeRsp ((runWords (accepted n s) s).2.setPorts []).takeRsp

/-- 70_reset_and_hazards.md R210, 00_scope.md R12: a run that starts with a hardware reset in any state, in which the host,
at any pace, gets INIT, any WRITEs and FINAL accepted and no other word, and no further reset, and which has ended, has
ended well; its observation is one response, the digest of the bytes, and the final `STATUS`. -/
def Obligations.RunObservesDigest : Prop :=
  ∀ (n : Nat) (s t : State) (seed : Word) (cs : List Instr), IsRun n s →
    (∀ p ∈ (s.ports.take n).tail, p.rst = false) → AllWrites cs →
    (accepted n s).map decode = (.init seed :: (cs ++ [.final])).map some →
    Host.Core.run Sys2Proof.core n s = .next t → Ended t →
      GoodEnd t ∧
      observe n s =
        some ⟨[(.digest128, false,
          some ((mm3 seed (cs.flatMap bytesOf)).1 ++ (mm3 seed (cs.flatMap bytesOf)).2))], 0b00011⟩

/-- 70_reset_and_hazards.md R210, 60_exceptions.md R197: an ended run stays ended and produces no response; without a
further hardware reset nothing changes but the samples. -/
def Obligations.EndedRunStaysEnded : Prop :=
  ∀ s t : State, Ended s → step s = .next t →
    Ended t ∧ produced s t = none ∧
    ((∀ p ∈ s.ports, p.rst = false) → t = s.setPorts s.ports.tail)

/-- 70_reset_and_hazards.md R203, R209: a host that issues INIT first never sees fault 2. -/
def Obligations.InitFirstAvoidsUninit : Prop :=
  ∀ (n : Nat) (s t : State), s.errcode ≠ 2 → hostAllowed n s = true → initFirst n s = true →
    Host.Core.run Sys2Proof.core n s = .next t → t.errcode ≠ 2

/-! ### Faults -/

/-- 60_exceptions.md R182: the check and its priority, for a decoded command and for an illegal word, at either value of
`ALLOW_WRITE_AFTER_FINAL`; a non-zero result refuses the command, and code 4 is never stored. -/
def Obligations.CheckPriority : Prop :=
  (∀ (allow : Bool) (c : Option Instr) (s : State), s.err = true → (checkWith allow c s).code = 4) ∧
  (∀ (allow : Bool) (s : State), s.err = false → (checkWith allow none s).code = 1) ∧
  (∀ (allow : Bool) (i : Instr) (s : State), s.err = false → s.valid = false → i.isInit = false →
    (checkWith allow (some i) s).code = 2) ∧
  (∀ (allow : Bool) (i : Instr) (s : State), s.err = false → (s.valid = true ∨ i.isInit = true) →
    (checkWith allow (some i) s).code = if s.done = true ∧ i.isWrite = true ∧ allow = false then 3 else 0) ∧
  (∀ (allow : Bool) (i : Instr) (body : State → State) (s : State),
    (checkWith allow (some i) s).code ≠ 0 →
      runCommandWith allow i body s = s.refuse (some i) (checkWith allow (some i) s)) ∧
  (∀ (c : Option Instr) (s : State), s.err = true → (s.refuse c .faulted).errcode = s.errcode)

/-- 60_exceptions.md R185 (R183): a refused command records the first code, changes no data register and not `VALID` or
`DONE`; a FINAL or FINAL64 fills `RSP` with an `err = 1` response of its kind, any other leaves it. -/
def Obligations.RefusedCommandRecordsFirstFault : Prop :=
  ∀ (i : Instr) (s : State), check (some i) s ≠ .proceed →
    ∃ t, exec i s = .next t ∧ SameRegisters s t ∧ t.valid = s.valid ∧ t.done = s.done ∧ t.err = true ∧
      t.errcode = (if s.err then s.errcode else BitVec.ofNat 2 (check (some i) s).code) ∧
      (i = .final → ∃ d, t.rsp = some ⟨.digest128, true, d⟩) ∧
      (i = .final64 → ∃ d, t.rsp = some ⟨.digest64, true, d⟩) ∧
      (i ≠ .final → i ≠ .final64 → t.rsp = s.rsp)

/-- 60_exceptions.md R184: a fault is final until hardware reset. While `ERR = 1`, every command is refused, INIT and RESET
included; a step without `rst` keeps `ERR`, `ERRCODE`, `VALID`, `DONE` and every data register, and a response it produces
has `err = 1`. -/
def Obligations.FaultIsFinalUntilReset : Prop :=
  ∀ (s t : State) (p : PortSample) (rest : List PortSample),
    s.err = true → s.ports = p :: rest → p.rst = false → step s = .next t →
      (∀ c : Option Instr, check c s = .faulted) ∧
      t.err = true ∧ t.errcode = s.errcode ∧ t.valid = s.valid ∧ t.done = s.done ∧ t.seed = s.seed ∧ t.h1 = s.h1 ∧
      t.h2 = s.h2 ∧ t.consumed = s.consumed ∧ t.plen = s.plen ∧ t.pend = s.pend ∧
      (∀ r, t.rsp = some r → s.rsp = some r ∨ r.err = true)

/-- 60_exceptions.md R180: no fault depends on a seed, on the bytes of a beat or on a data register: two commands of one
kind are checked alike in two states with the same flags. -/
def Obligations.NoDataCanFault : Prop :=
  ∀ (i j : Instr) (s t : State), i.isInit = j.isInit → i.isWrite = j.isWrite →
    s.err = t.err → s.valid = t.valid → s.done = t.done → check (some i) s = check (some j) t

/-- 30_encoding.md R76: every FINAL and FINAL64 produces exactly one response, of its kind, with `err = 0` and the digest
when it executes and `err = 1` when it is refused; no other command produces one. -/
def Obligations.ResponsesOnlyFromFinalize : Prop :=
  ∀ (i : Instr) (s t : State), s.rsp = none → exec i s = .next t →
    (i = .final → ∃ r, t.rsp = some r ∧ r.kind = .digest128 ∧ (r.err = false ↔ check (some i) s = .proceed) ∧
      (r.err = false → r.data = s.digest.1 ++ s.digest.2)) ∧
    (i = .final64 → ∃ r, t.rsp = some r ∧ r.kind = .digest64 ∧ (r.err = false ↔ check (some i) s = .proceed) ∧
      (r.err = false → r.data = (0 : Word) ++ s.digest.1)) ∧
    (i ≠ .final → i ≠ .final64 → t.rsp = none)

/-- 30_encoding.md R77 (10_state.md R29): the bits of the status port, in every state and whatever `rst` is. -/
def Obligations.StatusBits : Prop :=
  ∀ (s : State) (rst : Bool),
    (s.outputs rst).status.getLsbD 0 = s.valid ∧ (s.outputs rst).status.getLsbD 1 = s.done ∧
    (s.outputs rst).status.getLsbD 2 = s.err ∧ (s.outputs rst).status.extractLsb' 3 2 = s.errcode

/-- 30_encoding.md R71, R76: the other output ports, in every state. `cmd_ready` is 1 exactly when `RSP` is empty and
`rst = 0` (that no command is ever in progress is the model's choice, log 10); `rsp_valid` is 1 exactly when `RSP` is full and
`rst = 0`, and then the response ports show the response in it. -/
def Obligations.OutputPortsShowSlot : Prop :=
  ∀ (s : State) (rst : Bool),
    ((s.outputs rst).cmdReady = true ↔ rst = false ∧ s.rsp = none) ∧
    ((s.outputs rst).rspValid = true ↔ rst = false ∧ s.rsp ≠ none) ∧
    ((s.outputs rst).rspValid = true → (s.outputs rst).rsp = s.rsp)

/-! ### Rules about every step -/

/-- 10_state.md R20: SEED changes only at a hardware reset or when an INIT is accepted, and then it is INIT's seed. -/
def Obligations.SeedWrittenOnlyByInit : Prop :=
  ∀ s t : State, step s = .next t → t.seed ≠ s.seed →
    ∃ p rest, s.ports = p :: rest ∧ (p.rst = true ∨ (edgeOf p s = .accept p.word ∧ decode p.word = some (.init t.seed)))

/-- 41_streaming_control.md R129 (42_block_mixer.md R146): a refused command, FINAL, FINAL64 and a WRITE that completes no
block leave H1, H2 and CONSUMED alone; INIT and RESET restart them; a WRITE that completes a block mixes that block, the
pending bytes and the first bytes of the beat, into H1, H2 and adds 16 to CONSUMED. -/
def Obligations.AccumulatorMovesWithCount : Prop :=
  ∀ (i : Instr) (s t : State), i.wf = true → exec i s = .next t →
    (check (some i) s ≠ .proceed ∨ i = .final ∨ i = .final64 ∨
        (i.isWrite = true ∧ s.plen.toNat + (bytesOf i).length < 16) →
      t.h1 = s.h1 ∧ t.h2 = s.h2 ∧ t.consumed = s.consumed) ∧
    (check (some i) s = .proceed → i.isInit = true ∨ i = .reset → t.h1 = t.seed ∧ t.h2 = t.seed ∧ t.consumed = 0) ∧
    (check (some i) s = .proceed → i.isWrite = true → 16 ≤ s.plen.toNat + (bytesOf i).length →
      (t.h1, t.h2) = blockMix s.h1 s.h2 (s.pending ++ (bytesOf i).take (16 - s.plen.toNat)) ∧
      t.consumed = s.consumed + 16)

/-- 10_state.md R36: after hardware reset the flags are 0 and `RSP` is empty. The other registers are unspecified: nothing is
said of them. -/
def Obligations.ResetState : Prop :=
  State.reset.valid = false ∧ State.reset.done = false ∧ State.reset.err = false ∧ State.reset.errcode = 0 ∧
  State.reset.rsp = none ∧ State.reset.status = 0

/-- 10_state.md R25, R28, R26: the invariants hold right after hardware reset, and there is no session. -/
def Obligations.InvariantsHoldAtReset : Prop := RegInv State.reset ∧ RspInv State.reset ∧ SessionIs none State.reset

/-- 10_state.md R25, R28, 41_streaming_control.md R128: every step keeps the invariant of the registers and flags. -/
def Obligations.StepKeepsInvariant : Prop := ∀ s t : State, RegInv s → step s = .next t → RegInv t

/-- 70_reset_and_hazards.md R214, 30_encoding.md R76: every step keeps it true that a waiting response without error carries
the digest of the registers as they are, in a finalized session. -/
def Obligations.StepKeepsResponseCurrent : Prop := ∀ s t : State, RspInv s → step s = .next t → RspInv t

/-- 10_state.md R41: every step moves the session a state stands for as the spec says, and the registers stay those of its
seed and message: INIT that executes gives `(seed, empty)`, RESET `(s, empty)`, WRITE `(s, M ++ B)`, a hardware reset no
session, every other step the session there was. -/
def Obligations.StepKeepsSessionView : Prop :=
  ∀ (session : Option (Word × List Byte)) (s t : State),
    SessionIs session s → step s = .next t → SessionIs (sessionAfterStep s session) t

/-- 10_state.md R23, R36, 43_tail_finalizer.md R154, 93_implementation_defined.md section 2: nothing depends on a value the
spec leaves undefined. Two states that agree on everything defined step to states that agree on everything defined. -/
def Obligations.UndefinedValuesAreNeverRead : Prop :=
  ∀ s t : State, SameDefined s t → ∃ s' t', step s = .next s' ∧ step t = .next t' ∧ SameDefined s' t'
end

