-- ==== Sys2Proof/Laws/State.lean ====
section
/-! SUPPORT. What each update of the state does to each field: the fields it writes and its frame, one lemma per field per
update, true by unfolding, so that no later proof unfolds a record update. -/

namespace Sys2Proof.Machine

/-! ### State.setPorts -/

@[simp] theorem State.setPorts_ports (s : State) (ports : List PortSample) : (s.setPorts ports).ports = ports := rfl
@[simp] theorem State.setPorts_seed (s : State) (ports : List PortSample) : (s.setPorts ports).seed = s.seed := rfl
@[simp] theorem State.setPorts_h1 (s : State) (ports : List PortSample) : (s.setPorts ports).h1 = s.h1 := rfl
@[simp] theorem State.setPorts_h2 (s : State) (ports : List PortSample) : (s.setPorts ports).h2 = s.h2 := rfl
@[simp] theorem State.setPorts_consumed (s : State) (ports : List PortSample) : (s.setPorts ports).consumed = s.consumed := rfl
@[simp] theorem State.setPorts_plen (s : State) (ports : List PortSample) : (s.setPorts ports).plen = s.plen := rfl
@[simp] theorem State.setPorts_pend (s : State) (ports : List PortSample) : (s.setPorts ports).pend = s.pend := rfl
@[simp] theorem State.setPorts_valid (s : State) (ports : List PortSample) : (s.setPorts ports).valid = s.valid := rfl
@[simp] theorem State.setPorts_done (s : State) (ports : List PortSample) : (s.setPorts ports).done = s.done := rfl
@[simp] theorem State.setPorts_err (s : State) (ports : List PortSample) : (s.setPorts ports).err = s.err := rfl
@[simp] theorem State.setPorts_errcode (s : State) (ports : List PortSample) : (s.setPorts ports).errcode = s.errcode := rfl
@[simp] theorem State.setPorts_rsp (s : State) (ports : List PortSample) : (s.setPorts ports).rsp = s.rsp := rfl
@[simp] theorem State.setPorts_fresh (s : State) (ports : List PortSample) : (s.setPorts ports).fresh = s.fresh := rfl

/-! ### State.setSeed -/

@[simp] theorem State.setSeed_ports (s : State) (seed : Word) : (s.setSeed seed).ports = s.ports := rfl
@[simp] theorem State.setSeed_seed (s : State) (seed : Word) : (s.setSeed seed).seed = seed := rfl
@[simp] theorem State.setSeed_h1 (s : State) (seed : Word) : (s.setSeed seed).h1 = s.h1 := rfl
@[simp] theorem State.setSeed_h2 (s : State) (seed : Word) : (s.setSeed seed).h2 = s.h2 := rfl
@[simp] theorem State.setSeed_consumed (s : State) (seed : Word) : (s.setSeed seed).consumed = s.consumed := rfl
@[simp] theorem State.setSeed_plen (s : State) (seed : Word) : (s.setSeed seed).plen = s.plen := rfl
@[simp] theorem State.setSeed_pend (s : State) (seed : Word) : (s.setSeed seed).pend = s.pend := rfl
@[simp] theorem State.setSeed_valid (s : State) (seed : Word) : (s.setSeed seed).valid = s.valid := rfl
@[simp] theorem State.setSeed_done (s : State) (seed : Word) : (s.setSeed seed).done = s.done := rfl
@[simp] theorem State.setSeed_err (s : State) (seed : Word) : (s.setSeed seed).err = s.err := rfl
@[simp] theorem State.setSeed_errcode (s : State) (seed : Word) : (s.setSeed seed).errcode = s.errcode := rfl
@[simp] theorem State.setSeed_rsp (s : State) (seed : Word) : (s.setSeed seed).rsp = s.rsp := rfl
@[simp] theorem State.setSeed_fresh (s : State) (seed : Word) : (s.setSeed seed).fresh = s.fresh := rfl

/-! ### State.setAcc -/

@[simp] theorem State.setAcc_ports (s : State) (acc : Word × Word) : (s.setAcc acc).ports = s.ports := rfl
@[simp] theorem State.setAcc_seed (s : State) (acc : Word × Word) : (s.setAcc acc).seed = s.seed := rfl
@[simp] theorem State.setAcc_h1 (s : State) (acc : Word × Word) : (s.setAcc acc).h1 = acc.1 := rfl
@[simp] theorem State.setAcc_h2 (s : State) (acc : Word × Word) : (s.setAcc acc).h2 = acc.2 := rfl
@[simp] theorem State.setAcc_consumed (s : State) (acc : Word × Word) : (s.setAcc acc).consumed = s.consumed := rfl
@[simp] theorem State.setAcc_plen (s : State) (acc : Word × Word) : (s.setAcc acc).plen = s.plen := rfl
@[simp] theorem State.setAcc_pend (s : State) (acc : Word × Word) : (s.setAcc acc).pend = s.pend := rfl
@[simp] theorem State.setAcc_valid (s : State) (acc : Word × Word) : (s.setAcc acc).valid = s.valid := rfl
@[simp] theorem State.setAcc_done (s : State) (acc : Word × Word) : (s.setAcc acc).done = s.done := rfl
@[simp] theorem State.setAcc_err (s : State) (acc : Word × Word) : (s.setAcc acc).err = s.err := rfl
@[simp] theorem State.setAcc_errcode (s : State) (acc : Word × Word) : (s.setAcc acc).errcode = s.errcode := rfl
@[simp] theorem State.setAcc_rsp (s : State) (acc : Word × Word) : (s.setAcc acc).rsp = s.rsp := rfl
@[simp] theorem State.setAcc_fresh (s : State) (acc : Word × Word) : (s.setAcc acc).fresh = s.fresh := rfl

/-! ### State.setConsumed -/

@[simp] theorem State.setConsumed_ports (s : State) (v : Word) : (s.setConsumed v).ports = s.ports := rfl
@[simp] theorem State.setConsumed_seed (s : State) (v : Word) : (s.setConsumed v).seed = s.seed := rfl
@[simp] theorem State.setConsumed_h1 (s : State) (v : Word) : (s.setConsumed v).h1 = s.h1 := rfl
@[simp] theorem State.setConsumed_h2 (s : State) (v : Word) : (s.setConsumed v).h2 = s.h2 := rfl
@[simp] theorem State.setConsumed_consumed (s : State) (v : Word) : (s.setConsumed v).consumed = v := rfl
@[simp] theorem State.setConsumed_plen (s : State) (v : Word) : (s.setConsumed v).plen = s.plen := rfl
@[simp] theorem State.setConsumed_pend (s : State) (v : Word) : (s.setConsumed v).pend = s.pend := rfl
@[simp] theorem State.setConsumed_valid (s : State) (v : Word) : (s.setConsumed v).valid = s.valid := rfl
@[simp] theorem State.setConsumed_done (s : State) (v : Word) : (s.setConsumed v).done = s.done := rfl
@[simp] theorem State.setConsumed_err (s : State) (v : Word) : (s.setConsumed v).err = s.err := rfl
@[simp] theorem State.setConsumed_errcode (s : State) (v : Word) : (s.setConsumed v).errcode = s.errcode := rfl
@[simp] theorem State.setConsumed_rsp (s : State) (v : Word) : (s.setConsumed v).rsp = s.rsp := rfl
@[simp] theorem State.setConsumed_fresh (s : State) (v : Word) : (s.setConsumed v).fresh = s.fresh := rfl

/-! ### State.setValid -/

@[simp] theorem State.setValid_ports (s : State) (v : Bool) : (s.setValid v).ports = s.ports := rfl
@[simp] theorem State.setValid_seed (s : State) (v : Bool) : (s.setValid v).seed = s.seed := rfl
@[simp] theorem State.setValid_h1 (s : State) (v : Bool) : (s.setValid v).h1 = s.h1 := rfl
@[simp] theorem State.setValid_h2 (s : State) (v : Bool) : (s.setValid v).h2 = s.h2 := rfl
@[simp] theorem State.setValid_consumed (s : State) (v : Bool) : (s.setValid v).consumed = s.consumed := rfl
@[simp] theorem State.setValid_plen (s : State) (v : Bool) : (s.setValid v).plen = s.plen := rfl
@[simp] theorem State.setValid_pend (s : State) (v : Bool) : (s.setValid v).pend = s.pend := rfl
@[simp] theorem State.setValid_valid (s : State) (v : Bool) : (s.setValid v).valid = v := rfl
@[simp] theorem State.setValid_done (s : State) (v : Bool) : (s.setValid v).done = s.done := rfl
@[simp] theorem State.setValid_err (s : State) (v : Bool) : (s.setValid v).err = s.err := rfl
@[simp] theorem State.setValid_errcode (s : State) (v : Bool) : (s.setValid v).errcode = s.errcode := rfl
@[simp] theorem State.setValid_rsp (s : State) (v : Bool) : (s.setValid v).rsp = s.rsp := rfl
@[simp] theorem State.setValid_fresh (s : State) (v : Bool) : (s.setValid v).fresh = s.fresh := rfl

/-! ### State.setDone -/

@[simp] theorem State.setDone_ports (s : State) (v : Bool) : (s.setDone v).ports = s.ports := rfl
@[simp] theorem State.setDone_seed (s : State) (v : Bool) : (s.setDone v).seed = s.seed := rfl
@[simp] theorem State.setDone_h1 (s : State) (v : Bool) : (s.setDone v).h1 = s.h1 := rfl
@[simp] theorem State.setDone_h2 (s : State) (v : Bool) : (s.setDone v).h2 = s.h2 := rfl
@[simp] theorem State.setDone_consumed (s : State) (v : Bool) : (s.setDone v).consumed = s.consumed := rfl
@[simp] theorem State.setDone_plen (s : State) (v : Bool) : (s.setDone v).plen = s.plen := rfl
@[simp] theorem State.setDone_pend (s : State) (v : Bool) : (s.setDone v).pend = s.pend := rfl
@[simp] theorem State.setDone_valid (s : State) (v : Bool) : (s.setDone v).valid = s.valid := rfl
@[simp] theorem State.setDone_done (s : State) (v : Bool) : (s.setDone v).done = v := rfl
@[simp] theorem State.setDone_err (s : State) (v : Bool) : (s.setDone v).err = s.err := rfl
@[simp] theorem State.setDone_errcode (s : State) (v : Bool) : (s.setDone v).errcode = s.errcode := rfl
@[simp] theorem State.setDone_rsp (s : State) (v : Bool) : (s.setDone v).rsp = s.rsp := rfl
@[simp] theorem State.setDone_fresh (s : State) (v : Bool) : (s.setDone v).fresh = s.fresh := rfl

/-! ### State.emptyPend -/

@[simp] theorem State.emptyPend_ports (s : State) : s.emptyPend.ports = s.ports := rfl
@[simp] theorem State.emptyPend_seed (s : State) : s.emptyPend.seed = s.seed := rfl
@[simp] theorem State.emptyPend_h1 (s : State) : s.emptyPend.h1 = s.h1 := rfl
@[simp] theorem State.emptyPend_h2 (s : State) : s.emptyPend.h2 = s.h2 := rfl
@[simp] theorem State.emptyPend_consumed (s : State) : s.emptyPend.consumed = s.consumed := rfl
@[simp] theorem State.emptyPend_plen (s : State) : s.emptyPend.plen = 0 := rfl
@[simp] theorem State.emptyPend_pend (s : State) : s.emptyPend.pend = freeBuffer s.fresh := rfl
@[simp] theorem State.emptyPend_valid (s : State) : s.emptyPend.valid = s.valid := rfl
@[simp] theorem State.emptyPend_done (s : State) : s.emptyPend.done = s.done := rfl
@[simp] theorem State.emptyPend_err (s : State) : s.emptyPend.err = s.err := rfl
@[simp] theorem State.emptyPend_errcode (s : State) : s.emptyPend.errcode = s.errcode := rfl
@[simp] theorem State.emptyPend_rsp (s : State) : s.emptyPend.rsp = s.rsp := rfl
@[simp] theorem State.emptyPend_fresh (s : State) : s.emptyPend.fresh = s.fresh + 1 := rfl

/-! ### State.putPend -/

@[simp] theorem State.putPend_ports (s : State) (k : Nat) (bytes : List Byte) : (s.putPend k bytes).ports = s.ports := rfl
@[simp] theorem State.putPend_seed (s : State) (k : Nat) (bytes : List Byte) : (s.putPend k bytes).seed = s.seed := rfl
@[simp] theorem State.putPend_h1 (s : State) (k : Nat) (bytes : List Byte) : (s.putPend k bytes).h1 = s.h1 := rfl
@[simp] theorem State.putPend_h2 (s : State) (k : Nat) (bytes : List Byte) : (s.putPend k bytes).h2 = s.h2 := rfl
@[simp] theorem State.putPend_consumed (s : State) (k : Nat) (bytes : List Byte) : (s.putPend k bytes).consumed = s.consumed := rfl
@[simp] theorem State.putPend_plen (s : State) (k : Nat) (bytes : List Byte) : (s.putPend k bytes).plen = BitVec.ofNat 4 (k + bytes.length) := rfl
@[simp] theorem State.putPend_pend (s : State) (k : Nat) (bytes : List Byte) : (s.putPend k bytes).pend = putBytes k bytes s.pend := rfl
@[simp] theorem State.putPend_valid (s : State) (k : Nat) (bytes : List Byte) : (s.putPend k bytes).valid = s.valid := rfl
@[simp] theorem State.putPend_done (s : State) (k : Nat) (bytes : List Byte) : (s.putPend k bytes).done = s.done := rfl
@[simp] theorem State.putPend_err (s : State) (k : Nat) (bytes : List Byte) : (s.putPend k bytes).err = s.err := rfl
@[simp] theorem State.putPend_errcode (s : State) (k : Nat) (bytes : List Byte) : (s.putPend k bytes).errcode = s.errcode := rfl
@[simp] theorem State.putPend_rsp (s : State) (k : Nat) (bytes : List Byte) : (s.putPend k bytes).rsp = s.rsp := rfl
@[simp] theorem State.putPend_fresh (s : State) (k : Nat) (bytes : List Byte) : (s.putPend k bytes).fresh = s.fresh := rfl

/-! ### State.respond -/

@[simp] theorem State.respond_ports (s : State) (r : Response) : (s.respond r).ports = s.ports := rfl
@[simp] theorem State.respond_seed (s : State) (r : Response) : (s.respond r).seed = s.seed := rfl
@[simp] theorem State.respond_h1 (s : State) (r : Response) : (s.respond r).h1 = s.h1 := rfl
@[simp] theorem State.respond_h2 (s : State) (r : Response) : (s.respond r).h2 = s.h2 := rfl
@[simp] theorem State.respond_consumed (s : State) (r : Response) : (s.respond r).consumed = s.consumed := rfl
@[simp] theorem State.respond_plen (s : State) (r : Response) : (s.respond r).plen = s.plen := rfl
@[simp] theorem State.respond_pend (s : State) (r : Response) : (s.respond r).pend = s.pend := rfl
@[simp] theorem State.respond_valid (s : State) (r : Response) : (s.respond r).valid = s.valid := rfl
@[simp] theorem State.respond_done (s : State) (r : Response) : (s.respond r).done = s.done := rfl
@[simp] theorem State.respond_err (s : State) (r : Response) : (s.respond r).err = s.err := rfl
@[simp] theorem State.respond_errcode (s : State) (r : Response) : (s.respond r).errcode = s.errcode := rfl
@[simp] theorem State.respond_rsp (s : State) (r : Response) : (s.respond r).rsp = some r := rfl
@[simp] theorem State.respond_fresh (s : State) (r : Response) : (s.respond r).fresh = s.fresh := rfl

/-! ### State.respondRefused -/

@[simp] theorem State.respondRefused_ports (s : State) (kind : RspKind) : (s.respondRefused kind).ports = s.ports := rfl
@[simp] theorem State.respondRefused_seed (s : State) (kind : RspKind) : (s.respondRefused kind).seed = s.seed := rfl
@[simp] theorem State.respondRefused_h1 (s : State) (kind : RspKind) : (s.respondRefused kind).h1 = s.h1 := rfl
@[simp] theorem State.respondRefused_h2 (s : State) (kind : RspKind) : (s.respondRefused kind).h2 = s.h2 := rfl
@[simp] theorem State.respondRefused_consumed (s : State) (kind : RspKind) : (s.respondRefused kind).consumed = s.consumed := rfl
@[simp] theorem State.respondRefused_plen (s : State) (kind : RspKind) : (s.respondRefused kind).plen = s.plen := rfl
@[simp] theorem State.respondRefused_pend (s : State) (kind : RspKind) : (s.respondRefused kind).pend = s.pend := rfl
@[simp] theorem State.respondRefused_valid (s : State) (kind : RspKind) : (s.respondRefused kind).valid = s.valid := rfl
@[simp] theorem State.respondRefused_done (s : State) (kind : RspKind) : (s.respondRefused kind).done = s.done := rfl
@[simp] theorem State.respondRefused_err (s : State) (kind : RspKind) : (s.respondRefused kind).err = s.err := rfl
@[simp] theorem State.respondRefused_errcode (s : State) (kind : RspKind) : (s.respondRefused kind).errcode = s.errcode := rfl
@[simp] theorem State.respondRefused_rsp (s : State) (kind : RspKind) : (s.respondRefused kind).rsp = some ⟨kind, true, Config.freeRspData s.fresh⟩ := rfl
@[simp] theorem State.respondRefused_fresh (s : State) (kind : RspKind) : (s.respondRefused kind).fresh = s.fresh + 1 := rfl

/-! ### State.takeRsp -/

@[simp] theorem State.takeRsp_ports (s : State) : s.takeRsp.ports = s.ports := rfl
@[simp] theorem State.takeRsp_seed (s : State) : s.takeRsp.seed = s.seed := rfl
@[simp] theorem State.takeRsp_h1 (s : State) : s.takeRsp.h1 = s.h1 := rfl
@[simp] theorem State.takeRsp_h2 (s : State) : s.takeRsp.h2 = s.h2 := rfl
@[simp] theorem State.takeRsp_consumed (s : State) : s.takeRsp.consumed = s.consumed := rfl
@[simp] theorem State.takeRsp_plen (s : State) : s.takeRsp.plen = s.plen := rfl
@[simp] theorem State.takeRsp_pend (s : State) : s.takeRsp.pend = s.pend := rfl
@[simp] theorem State.takeRsp_valid (s : State) : s.takeRsp.valid = s.valid := rfl
@[simp] theorem State.takeRsp_done (s : State) : s.takeRsp.done = s.done := rfl
@[simp] theorem State.takeRsp_err (s : State) : s.takeRsp.err = s.err := rfl
@[simp] theorem State.takeRsp_errcode (s : State) : s.takeRsp.errcode = s.errcode := rfl
@[simp] theorem State.takeRsp_rsp (s : State) : s.takeRsp.rsp = none := rfl
@[simp] theorem State.takeRsp_fresh (s : State) : s.takeRsp.fresh = s.fresh := rfl

/-! ### State.hardReset -/

@[simp] theorem State.hardReset_ports (s : State) : s.hardReset.ports = s.ports := rfl
@[simp] theorem State.hardReset_seed (s : State) : s.hardReset.seed = Config.freeSeed s.fresh := rfl
@[simp] theorem State.hardReset_h1 (s : State) : s.hardReset.h1 = Config.freeH1 s.fresh := rfl
@[simp] theorem State.hardReset_h2 (s : State) : s.hardReset.h2 = Config.freeH2 s.fresh := rfl
@[simp] theorem State.hardReset_consumed (s : State) : s.hardReset.consumed = Config.freeConsumed s.fresh := rfl
@[simp] theorem State.hardReset_plen (s : State) : s.hardReset.plen = Config.freePlen s.fresh := rfl
@[simp] theorem State.hardReset_pend (s : State) : s.hardReset.pend = freeBuffer s.fresh := rfl
@[simp] theorem State.hardReset_valid (s : State) : s.hardReset.valid = false := rfl
@[simp] theorem State.hardReset_done (s : State) : s.hardReset.done = false := rfl
@[simp] theorem State.hardReset_err (s : State) : s.hardReset.err = false := rfl
@[simp] theorem State.hardReset_errcode (s : State) : s.hardReset.errcode = 0 := rfl
@[simp] theorem State.hardReset_rsp (s : State) : s.hardReset.rsp = none := rfl
@[simp] theorem State.hardReset_fresh (s : State) : s.hardReset.fresh = s.fresh + 1 := rfl

/-! ### State.restart -/

@[simp] theorem State.restart_ports (s : State) : s.restart.ports = s.ports := rfl
@[simp] theorem State.restart_seed (s : State) : s.restart.seed = s.seed := rfl
@[simp] theorem State.restart_h1 (s : State) : s.restart.h1 = s.seed := rfl
@[simp] theorem State.restart_h2 (s : State) : s.restart.h2 = s.seed := rfl
@[simp] theorem State.restart_consumed (s : State) : s.restart.consumed = 0 := rfl
@[simp] theorem State.restart_plen (s : State) : s.restart.plen = 0 := rfl
@[simp] theorem State.restart_pend (s : State) : s.restart.pend = freeBuffer s.fresh := rfl
@[simp] theorem State.restart_valid (s : State) : s.restart.valid = s.valid := rfl
@[simp] theorem State.restart_done (s : State) : s.restart.done = false := rfl
@[simp] theorem State.restart_err (s : State) : s.restart.err = s.err := rfl
@[simp] theorem State.restart_errcode (s : State) : s.restart.errcode = s.errcode := rfl
@[simp] theorem State.restart_rsp (s : State) : s.restart.rsp = s.rsp := rfl
@[simp] theorem State.restart_fresh (s : State) : s.restart.fresh = s.fresh + 1 := rfl

/-! ### State.absorb -/

@[simp] theorem State.absorb_ports (s : State) (blk : List Byte) : (s.absorb blk).ports = s.ports := rfl
@[simp] theorem State.absorb_seed (s : State) (blk : List Byte) : (s.absorb blk).seed = s.seed := rfl
@[simp] theorem State.absorb_h1 (s : State) (blk : List Byte) : (s.absorb blk).h1 = (blockMix s.h1 s.h2 blk).1 := rfl
@[simp] theorem State.absorb_h2 (s : State) (blk : List Byte) : (s.absorb blk).h2 = (blockMix s.h1 s.h2 blk).2 := rfl
@[simp] theorem State.absorb_consumed (s : State) (blk : List Byte) : (s.absorb blk).consumed = add64 s.consumed 16 := rfl
@[simp] theorem State.absorb_plen (s : State) (blk : List Byte) : (s.absorb blk).plen = s.plen := rfl
@[simp] theorem State.absorb_pend (s : State) (blk : List Byte) : (s.absorb blk).pend = s.pend := rfl
@[simp] theorem State.absorb_valid (s : State) (blk : List Byte) : (s.absorb blk).valid = s.valid := rfl
@[simp] theorem State.absorb_done (s : State) (blk : List Byte) : (s.absorb blk).done = s.done := rfl
@[simp] theorem State.absorb_err (s : State) (blk : List Byte) : (s.absorb blk).err = s.err := rfl
@[simp] theorem State.absorb_errcode (s : State) (blk : List Byte) : (s.absorb blk).errcode = s.errcode := rfl
@[simp] theorem State.absorb_rsp (s : State) (blk : List Byte) : (s.absorb blk).rsp = s.rsp := rfl
@[simp] theorem State.absorb_fresh (s : State) (blk : List Byte) : (s.absorb blk).fresh = s.fresh := rfl

end Sys2Proof.Machine
end

