-- ==== Sys2Proof/Laws/Bytes.lean ====
section
/-! SUPPORT. What is written to the pending buffer can be read back, and nothing else of it changes. -/

namespace Sys2Proof.Machine

variable {s : State}

theorem pend_length (v : Vector Byte 15) : v.toList.length = 15 := by simp

/-- The buffer after a write that fits: the bytes written, all others as before. -/
theorem putBytes_toList (bytes : List Byte) (k : Nat) (pend : Vector Byte 15) (h : k + bytes.length ≤ 15) :
    (putBytes k bytes pend).toList = pend.toList.take k ++ bytes ++ pend.toList.drop (k + bytes.length) := by
  induction bytes generalizing k pend with
  | nil => simp [putBytes]
  | cons b rest ih =>
    simp only [List.length_cons] at h
    have hk : k < pend.toList.length := by rw [pend_length]; omega
    have hset : (pend.setIfInBounds k b).toList = pend.toList.set k b := by simp
    rw [putBytes, ih (k + 1) _ (by omega), hset, List.take_set, List.drop_set_of_lt (by omega),
      List.take_succ_eq_append_getElem hk, List.set_append]
    have hl : (pend.toList.take k).length = k := by rw [List.length_take]; omega
    simp only [hl, Nat.lt_irrefl, if_false, Nat.sub_self, List.set_cons_zero]
    rw [List.length_cons, show k + 1 + rest.length = k + (rest.length + 1) by omega]
    simp only [List.append_assoc, List.singleton_append]

/-- The defined bytes after a write at the end of the buffer. -/
theorem pending_putPend {k : Nat} {bytes : List Byte} (h : k + bytes.length ≤ 15) :
    (s.putPend k bytes).pending = s.pend.toList.take k ++ bytes := by
  have hl : (s.pend.toList.take k ++ bytes).length = k + bytes.length := by
    rw [List.length_append, List.length_take, pend_length]; omega
  have hp : (BitVec.ofNat 4 (k + bytes.length)).toNat = k + bytes.length := by
    rw [BitVec.toNat_ofNat]; omega
  rw [State.pending, State.putPend_plen, State.putPend_pend, hp, putBytes_toList bytes k s.pend h, ← hl, List.take_left]

theorem pending_length (s : State) : s.pending.length = s.plen.toNat := by
  rw [State.pending, List.length_take, pend_length]; omega

@[simp] theorem pending_emptyPend : s.emptyPend.pending = [] := by simp [State.pending]

/-- The defined bytes depend on `PEND` and `PLEN` alone. -/
theorem pending_congr {t : State} (hl : s.plen = t.plen) (hp : s.pend = t.pend) : s.pending = t.pending := by
  rw [State.pending, State.pending, hl, hp]

/-- The defined bytes of a state with no byte pending. -/
theorem pending_of_plen_zero (h : s.plen = 0) : s.pending = [] := by simp [State.pending, h]

end Sys2Proof.Machine
end

