-- ==== Sys2Proof/Laws/Decode.lean ====
section
/-! SUPPORT. The fields of a packed command word, and the bytes of a packed beat (30_encoding.md R72, R73). -/

namespace Sys2Proof

/-! ### The three fields -/

@[simp] theorem cwOp_cwPack (data : BitVec 128) (len : BitVec 5) (op : BitVec 3) : cwOp (cwPack data len op) = op := by
  apply BitVec.eq_of_getLsbD_eq
  intro i hi
  rw [cwOp, cwPack, BitVec.getLsbD_extractLsb', BitVec.getLsbD_append]
  simp [hi]

@[simp] theorem cwLen_cwPack (data : BitVec 128) (len : BitVec 5) (op : BitVec 3) : cwLen (cwPack data len op) = len := by
  apply BitVec.eq_of_getLsbD_eq
  intro i hi
  rw [cwLen, cwPack, BitVec.getLsbD_extractLsb', BitVec.getLsbD_append, BitVec.getLsbD_append]
  simp [hi]

@[simp] theorem cwData_cwPack (data : BitVec 128) (len : BitVec 5) (op : BitVec 3) :
    cwData (cwPack data len op) = data := by
  apply BitVec.eq_of_getLsbD_eq
  intro i hi
  rw [cwData, cwPack, BitVec.getLsbD_extractLsb', BitVec.getLsbD_append, BitVec.getLsbD_append]
  have h1 : ¬ 8 + i < 3 := by omega
  have h2 : ¬ 8 + i - 3 < 5 := by omega
  have h3 : 8 + i - 3 - 5 = i := by omega
  simp [hi, h1, h2, h3]

/-- A word is its three fields. -/
theorem cwPack_fields (cw : CmdWord) : cwPack (cwData cw) (cwLen cw) (cwOp cw) = cw := by
  apply BitVec.eq_of_getLsbD_eq
  intro i hi
  rw [cwPack, BitVec.getLsbD_append, BitVec.getLsbD_append, cwOp, cwLen, cwData]
  simp only [BitVec.getLsbD_extractLsb']
  by_cases h1 : i < 3
  · simp [h1]
  · by_cases h2 : i - 3 < 5
    · simp [h1, h2, show 3 + (i - 3) = i by omega]
    · simp [h1, h2, show 8 + (i - 3 - 5) = i by omega, show i - 3 - 5 < 128 by omega]

/-- The control byte is `{len, op}`. -/
theorem cwCtl_cwPack (data : BitVec 128) (len : BitVec 5) (op : BitVec 3) :
    cwCtl (cwPack data len op) = (len ++ op : BitVec (5 + 3)) := by
  apply BitVec.eq_of_getLsbD_eq
  intro i hi
  rw [cwCtl, cwPack, BitVec.getLsbD_extractLsb', BitVec.getLsbD_append, BitVec.getLsbD_append, BitVec.getLsbD_append]
  by_cases h1 : i < 3
  · simp [h1, hi]
  · simp [h1, hi, show i - 3 < 5 by omega]

/-! ### Lanes -/

theorem laneByte_packBeat_cons_zero (b : Byte) (rest : List Byte) : laneByte (packBeat (b :: rest)) 0 = b := by
  apply BitVec.eq_of_getLsbD_eq
  intro i hi
  simp only [laneByte, packBeat, BitVec.getLsbD_extractLsb', BitVec.getLsbD_or, BitVec.getLsbD_shiftLeft,
    BitVec.getLsbD_setWidth]
  simp [hi, show i < 128 by omega]

theorem laneByte_packBeat_cons_succ (b : Byte) (rest : List Byte) (j : Nat) (h : j + 1 < 16) :
    laneByte (packBeat (b :: rest)) (j + 1) = laneByte (packBeat rest) j := by
  apply BitVec.eq_of_getLsbD_eq
  intro i hi
  simp only [laneByte, packBeat, BitVec.getLsbD_extractLsb', BitVec.getLsbD_or, BitVec.getLsbD_shiftLeft,
    BitVec.getLsbD_setWidth]
  have h0 : b.getLsbD (8 * (j + 1) + i) = false := BitVec.getLsbD_of_ge _ _ (by omega)
  simp [hi, h0, show 8 * (j + 1) + i < 128 by omega, show ¬ 8 * (j + 1) + i < 8 by omega,
    show 8 * (j + 1) + i - 8 = 8 * j + i by omega]

/-- Lane `j` of a packed beat is its byte `j`; a lane past the end is zero (30_encoding.md R81). -/
theorem laneByte_packBeat (beat : List Byte) (j : Nat) (h : j < 16) :
    laneByte (packBeat beat) j = beat.getD j 0 := by
  induction beat generalizing j with
  | nil => simp [laneByte, packBeat]
  | cons b rest ih =>
    cases j with
    | zero => simp [laneByte_packBeat_cons_zero]
    | succ j => rw [laneByte_packBeat_cons_succ b rest j h, ih j (by omega)]; simp

/-- A beat of at most 16 bytes survives packing. -/
theorem beatOf_packBeat (beat : List Byte) (h : beat.length ≤ 16) : beatOf (packBeat beat) beat.length = beat := by
  apply List.ext_getElem
  · simp [beatOf]
  · intro j h1 h2
    simp [beatOf, laneByte_packBeat beat j (by omega), h2]

theorem beatOf_length (data : BitVec 128) (n : Nat) : (beatOf data n).length = n := by simp [beatOf]

end Sys2Proof
end

