-- ==== Sys2Proof/Laws/Ops.lean ====
section
/-! SUPPORT. The check, raising a fault, refusing a command, executing a command and a step: for each, one lemma that says
what it can do, and the fields it leaves alone. -/

namespace Sys2Proof.Machine

variable {s t : State} {i : Instr} {c : Option Instr} {allow : Bool} {v : Verdict}

/-! ### The check (60_exceptions.md R182) -/

theorem checkWith_of_err (h : s.err = true) : checkWith allow c s = .faulted := by
  simp [checkWith, h]

theorem checkWith_none (h : s.err = false) : checkWith allow none s = .illegal := by
  simp [checkWith, h]

theorem checkWith_some (h : s.err = false) :
    checkWith allow (some i) s =
      if s.valid = false ∧ i.isInit = false then .uninit
      else if s.done = true ∧ i.isWrite = true ∧ allow = false then .seq
      else .proceed := by
  cases hv : s.valid <;> cases hd : s.done <;> cases hi : i.isInit <;> cases hw : i.isWrite <;> cases allow <;>
    simp [checkWith, h, hv, hd, hi, hw]

theorem checkWith_proceed_iff :
    checkWith allow (some i) s = .proceed ↔
      s.err = false ∧ (s.valid = true ∨ i.isInit = true) ∧ ¬(s.done = true ∧ i.isWrite = true ∧ allow = false) := by
  cases he : s.err
  · rw [checkWith_some he]
    cases hv : s.valid <;> cases hd : s.done <;> cases hi : i.isInit <;> cases hw : i.isWrite <;> cases allow <;> simp
  · simp [checkWith_of_err he]

theorem check_proceed_iff :
    check (some i) s = .proceed ↔
      s.err = false ∧ (s.valid = true ∨ i.isInit = true) ∧ ¬(s.done = true ∧ i.isWrite = true) := by
  rw [check, checkWith_proceed_iff]
  simp [Config.allowWriteAfterFinal]

/-! ### Raising a fault (60_exceptions.md R183) -/

theorem raiseFault_of_err (h : s.err = true) : s.raiseFault v = s := by simp [State.raiseFault, h]

theorem raiseFault_first (h : s.err = false) :
    s.raiseFault v = { s with err := true, errcode := BitVec.ofNat 2 v.code } := by simp [State.raiseFault, h]

@[simp] theorem State.raiseFault_err (s : State) (v : Verdict) : (s.raiseFault v).err = true := by
  cases h : s.err <;> simp [State.raiseFault, h]
@[simp] theorem State.raiseFault_errcode (s : State) (v : Verdict) :
    (s.raiseFault v).errcode = if s.err then s.errcode else BitVec.ofNat 2 v.code := by
  cases h : s.err <;> simp [State.raiseFault, h]
@[simp] theorem State.raiseFault_ports (s : State) (v : Verdict) : (s.raiseFault v).ports = s.ports := by
  cases h : s.err <;> simp [State.raiseFault, h]
@[simp] theorem State.raiseFault_seed (s : State) (v : Verdict) : (s.raiseFault v).seed = s.seed := by
  cases h : s.err <;> simp [State.raiseFault, h]
@[simp] theorem State.raiseFault_h1 (s : State) (v : Verdict) : (s.raiseFault v).h1 = s.h1 := by
  cases h : s.err <;> simp [State.raiseFault, h]
@[simp] theorem State.raiseFault_h2 (s : State) (v : Verdict) : (s.raiseFault v).h2 = s.h2 := by
  cases h : s.err <;> simp [State.raiseFault, h]
@[simp] theorem State.raiseFault_consumed (s : State) (v : Verdict) : (s.raiseFault v).consumed = s.consumed := by
  cases h : s.err <;> simp [State.raiseFault, h]
@[simp] theorem State.raiseFault_plen (s : State) (v : Verdict) : (s.raiseFault v).plen = s.plen := by
  cases h : s.err <;> simp [State.raiseFault, h]
@[simp] theorem State.raiseFault_pend (s : State) (v : Verdict) : (s.raiseFault v).pend = s.pend := by
  cases h : s.err <;> simp [State.raiseFault, h]
@[simp] theorem State.raiseFault_valid (s : State) (v : Verdict) : (s.raiseFault v).valid = s.valid := by
  cases h : s.err <;> simp [State.raiseFault, h]
@[simp] theorem State.raiseFault_done (s : State) (v : Verdict) : (s.raiseFault v).done = s.done := by
  cases h : s.err <;> simp [State.raiseFault, h]
@[simp] theorem State.raiseFault_rsp (s : State) (v : Verdict) : (s.raiseFault v).rsp = s.rsp := by
  cases h : s.err <;> simp [State.raiseFault, h]
@[simp] theorem State.raiseFault_fresh (s : State) (v : Verdict) : (s.raiseFault v).fresh = s.fresh := by
  cases h : s.err <;> simp [State.raiseFault, h]

/-! ### Refusing a command (60_exceptions.md R183, R185) -/

@[simp] theorem State.answerRefused_ports (s : State) (c : Option Instr) : (s.answerRefused c).ports = s.ports := by
  rcases c with _ | i
  · rfl
  · cases i <;> rfl
@[simp] theorem State.answerRefused_seed (s : State) (c : Option Instr) : (s.answerRefused c).seed = s.seed := by
  rcases c with _ | i
  · rfl
  · cases i <;> rfl
@[simp] theorem State.answerRefused_h1 (s : State) (c : Option Instr) : (s.answerRefused c).h1 = s.h1 := by
  rcases c with _ | i
  · rfl
  · cases i <;> rfl
@[simp] theorem State.answerRefused_h2 (s : State) (c : Option Instr) : (s.answerRefused c).h2 = s.h2 := by
  rcases c with _ | i
  · rfl
  · cases i <;> rfl
@[simp] theorem State.answerRefused_consumed (s : State) (c : Option Instr) : (s.answerRefused c).consumed = s.consumed := by
  rcases c with _ | i
  · rfl
  · cases i <;> rfl
@[simp] theorem State.answerRefused_plen (s : State) (c : Option Instr) : (s.answerRefused c).plen = s.plen := by
  rcases c with _ | i
  · rfl
  · cases i <;> rfl
@[simp] theorem State.answerRefused_pend (s : State) (c : Option Instr) : (s.answerRefused c).pend = s.pend := by
  rcases c with _ | i
  · rfl
  · cases i <;> rfl
@[simp] theorem State.answerRefused_valid (s : State) (c : Option Instr) : (s.answerRefused c).valid = s.valid := by
  rcases c with _ | i
  · rfl
  · cases i <;> rfl
@[simp] theorem State.answerRefused_done (s : State) (c : Option Instr) : (s.answerRefused c).done = s.done := by
  rcases c with _ | i
  · rfl
  · cases i <;> rfl
@[simp] theorem State.answerRefused_err (s : State) (c : Option Instr) : (s.answerRefused c).err = s.err := by
  rcases c with _ | i
  · rfl
  · cases i <;> rfl
@[simp] theorem State.answerRefused_errcode (s : State) (c : Option Instr) : (s.answerRefused c).errcode = s.errcode := by
  rcases c with _ | i
  · rfl
  · cases i <;> rfl

@[simp] theorem State.refuse_ports (s : State) (c : Option Instr) (v : Verdict) : (s.refuse c v).ports = s.ports := by
  simp [State.refuse]
@[simp] theorem State.refuse_seed (s : State) (c : Option Instr) (v : Verdict) : (s.refuse c v).seed = s.seed := by
  simp [State.refuse]
@[simp] theorem State.refuse_h1 (s : State) (c : Option Instr) (v : Verdict) : (s.refuse c v).h1 = s.h1 := by
  simp [State.refuse]
@[simp] theorem State.refuse_h2 (s : State) (c : Option Instr) (v : Verdict) : (s.refuse c v).h2 = s.h2 := by
  simp [State.refuse]
@[simp] theorem State.refuse_consumed (s : State) (c : Option Instr) (v : Verdict) : (s.refuse c v).consumed = s.consumed := by
  simp [State.refuse]
@[simp] theorem State.refuse_plen (s : State) (c : Option Instr) (v : Verdict) : (s.refuse c v).plen = s.plen := by
  simp [State.refuse]
@[simp] theorem State.refuse_pend (s : State) (c : Option Instr) (v : Verdict) : (s.refuse c v).pend = s.pend := by
  simp [State.refuse]
@[simp] theorem State.refuse_valid (s : State) (c : Option Instr) (v : Verdict) : (s.refuse c v).valid = s.valid := by
  simp [State.refuse]
@[simp] theorem State.refuse_done (s : State) (c : Option Instr) (v : Verdict) : (s.refuse c v).done = s.done := by
  simp [State.refuse]
@[simp] theorem State.refuse_err (s : State) (c : Option Instr) (v : Verdict) : (s.refuse c v).err = true := by
  simp [State.refuse]
@[simp] theorem State.refuse_errcode (s : State) (c : Option Instr) (v : Verdict) :
    (s.refuse c v).errcode = if s.err then s.errcode else BitVec.ofNat 2 v.code := by
  simp [State.refuse]
@[simp] theorem State.refuse_rsp_final (s : State) (v : Verdict) :
    (s.refuse (some .final) v).rsp = some ⟨.digest128, true, Config.freeRspData s.fresh⟩ := by
  simp [State.refuse, State.answerRefused]
@[simp] theorem State.refuse_rsp_final64 (s : State) (v : Verdict) :
    (s.refuse (some .final64) v).rsp = some ⟨.digest64, true, Config.freeRspData s.fresh⟩ := by
  simp [State.refuse, State.answerRefused]

/-- A refused word that is neither FINAL nor FINAL64 leaves `RSP` and the free-value counter alone. -/
theorem refuse_quiet (h : c ≠ some .final) (h' : c ≠ some .final64) : s.refuse c v = s.raiseFault v := by
  rcases c with _ | i
  · rfl
  · cases i <;> first | rfl | exact absurd rfl h | exact absurd rfl h'

/-! ### Executing a command (41_streaming_control.md R120) -/

theorem runCommandWith_proceed {body : State → State} (h : checkWith allow (some i) s = .proceed) :
    runCommandWith allow i body s = body s := by simp [runCommandWith, h]

theorem runCommandWith_refused {body : State → State} (h : checkWith allow (some i) s ≠ .proceed) :
    runCommandWith allow i body s = s.refuse (some i) (checkWith allow (some i) s) := by
  unfold runCommandWith
  split <;> simp_all

/-- The pseudocode of each command, by name. -/
def bodyOf : Instr → State → State
  | .init seed => initBody seed
  | .write beat => writeBody beat
  | .write16 beat => writeBody beat
  | .final => finalBody
  | .final64 => final64Body
  | .reset => resetBody

/-- Every command answers a next state. -/
theorem exec_eq (i : Instr) (s : State) : exec i s = .next (runCommand i (bodyOf i) s) := by
  cases i <;> rfl

theorem exec_legal (h : check (some i) s = .proceed) : exec i s = .next (bodyOf i s) := by
  rw [exec_eq, runCommand, runCommandWith_proceed h]

theorem exec_refused (h : check (some i) s ≠ .proceed) :
    exec i s = .next (s.refuse (some i) (check (some i) s)) := by
  rw [exec_eq, runCommand, runCommandWith_refused h]; rfl

/-- All that executing a command can do. -/
theorem exec_cases (h : exec i s = .next t) :
    (check (some i) s = .proceed ∧ t = bodyOf i s) ∨
    (check (some i) s ≠ .proceed ∧ t = s.refuse (some i) (check (some i) s)) := by
  by_cases hc : check (some i) s = .proceed
  · rw [exec_legal hc] at h
    exact .inl ⟨hc, by injection h with h; exact h.symm⟩
  · rw [exec_refused hc] at h
    exact .inr ⟨hc, by injection h with h; exact h.symm⟩

/-! ### One step (30_encoding.md R71) -/

theorem step_nil (h : s.ports = []) : step s = .next s := by simp [step, portAction, h]

theorem step_cons {p : PortSample} {rest : List PortSample} (h : s.ports = p :: rest) :
    step s =
      match edgeOf p s with
      | .idle => .next (s.setPorts rest)
      | .reset => .next (s.setPorts rest).hardReset
      | .take => .next (s.setPorts rest).takeRsp
      | .accept cw =>
        match decode cw with
        | some i => exec i (s.setPorts rest)
        | none => .next (runIllegal (s.setPorts rest)) := by
  simp only [step, portAction, h]
  cases he : edgeOf p s with
  | accept cw => cases hd : decode cw <;> simp [hd]
  | _ => rfl

theorem edgeOf_accept {p : PortSample} (hr : p.rst = false) (hv : p.cmdValid = true) (hs : s.rsp = none) :
    edgeOf p s = .accept p.word := by
  simp [edgeOf, State.cmdReady, hr, hv, hs]

/-- All that one step can do. -/
theorem step_cases (h : step s = .next t) :
    (s.ports = [] ∧ t = s) ∨
    ∃ p rest, s.ports = p :: rest ∧
      ((edgeOf p s = .idle ∧ t = s.setPorts rest) ∨
       (p.rst = true ∧ t = (s.setPorts rest).hardReset) ∨
       (p.rst = false ∧ s.rsp ≠ none ∧ t = (s.setPorts rest).takeRsp) ∨
       (p.rst = false ∧ s.rsp = none ∧
         ((∃ i, decode p.word = some i ∧ exec i (s.setPorts rest) = .next t) ∨
          (decode p.word = none ∧ t = runIllegal (s.setPorts rest))))) := by
  rcases hp : s.ports with _ | ⟨p, rest⟩
  · rw [step_nil hp] at h
    exact .inl ⟨rfl, by injection h with h; exact h.symm⟩
  · refine .inr ⟨p, rest, rfl, ?_⟩
    rw [step_cons hp] at h
    cases hr : p.rst with
    | true =>
      have he : edgeOf p s = .reset := by simp [edgeOf, hr]
      rw [he] at h
      exact .inr (.inl ⟨rfl, by injection h with h; exact h.symm⟩)
    | false =>
      cases hs : s.rsp with
      | none =>
        cases hv : p.cmdValid with
        | true =>
          rw [edgeOf_accept hr hv hs] at h
          refine .inr (.inr (.inr ⟨rfl, rfl, ?_⟩))
          cases hd : decode p.word with
          | some i => exact .inl ⟨i, rfl, by simpa [hd] using h⟩
          | none => exact .inr ⟨rfl, by simp [hd] at h; exact h.symm⟩
        | false =>
          have he : edgeOf p s = .idle := by simp [edgeOf, State.rspValid, hr, hv, hs]
          rw [he] at h
          exact .inl ⟨he, by injection h with h; exact h.symm⟩
      | some r =>
        cases hq : p.rspReady with
        | true =>
          have he : edgeOf p s = .take := by simp [edgeOf, State.cmdReady, State.rspValid, hr, hq, hs]
          rw [he] at h
          exact .inr (.inr (.inl ⟨rfl, by simp, by injection h with h; exact h.symm⟩))
        | false =>
          have he : edgeOf p s = .idle := by simp [edgeOf, State.cmdReady, hr, hq, hs]
          rw [he] at h
          exact .inl ⟨he, by injection h with h; exact h.symm⟩

end Sys2Proof.Machine
end

