-- ==== Sys2Proof/Laws/PerInstr.lean ====
section
/-! SUPPORT. Statements about every command as syntax, one lemma per constructor. -/

namespace Sys2Proof.Laws.Ctl

/-- The control byte the spec gives each command (41_streaming_control.md R122 to R124, 43_tail_finalizer.md R158, R159). -/
def byteOf : Instr → Byte
  | .init _ => 0x01
  | .write beat => 0x02 + 8 * BitVec.ofNat 8 beat.length
  | .write16 _ => 0x82
  | .final => 0x03
  | .final64 => 0x04
  | .reset => 0x05

/-- The encoder puts the command's control byte into `CW[7:0]`. -/
def Statement (i : Instr) : Prop := i.wf = true → cwCtl (encode i) = byteOf i

theorem init (seed : Word) : Statement (.init seed) := by
  intro _; rw [encode, cwCtl_cwPack]; rfl

theorem write (beat : List Byte) : Statement (.write beat) := by
  intro h
  have hl : beat.length ≤ 15 := by simpa [Instr.wf] using h
  rw [encode, cwCtl_cwPack, byteOf]
  generalize beat.length = n at hl
  interval_cases n <;> rfl

theorem write16 (beat : List Byte) : Statement (.write16 beat) := by
  intro h
  have hl : beat.length = 16 := by simpa [Instr.wf] using h
  rw [encode, cwCtl_cwPack, hl]; rfl

theorem final : Statement .final := by
  intro _; rw [encode, cwCtl_cwPack]; rfl

theorem final64 : Statement .final64 := by
  intro _; rw [encode, cwCtl_cwPack]; rfl

theorem reset : Statement .reset := by
  intro _; rw [encode, cwCtl_cwPack]; rfl

end Sys2Proof.Laws.Ctl
end

