-- ==== Sys2Proof/Laws/Run.lean ====
section
/-! SUPPORT. A run one step at a time: what each function over runs does when the first step is known, and when a word is
accepted. -/

namespace Sys2Proof.Machine

variable {s t : State} {n : Nat} {cw : CmdWord} {p : PortSample} {rest : List PortSample}

/-! ### Which word is accepted (30_encoding.md R71) -/

theorem acceptedNow_nil (h : s.ports = []) : s.acceptedNow = none := by simp [State.acceptedNow, h]

theorem acceptedNow_cons (h : s.ports = p :: rest) :
    s.acceptedNow = if p.rst = false ∧ p.cmdValid = true ∧ s.rsp = none then some p.word else none := by
  simp only [State.acceptedNow, h]
  cases hr : p.rst <;> cases hv : p.cmdValid <;> cases hq : p.rspReady <;> cases hs : s.rsp <;>
    simp [edgeOf, State.cmdReady, State.rspValid, hr, hv, hq, hs]

theorem acceptedNow_eq_some (h : s.acceptedNow = some cw) :
    ∃ p rest, s.ports = p :: rest ∧ p.rst = false ∧ p.cmdValid = true ∧ s.rsp = none ∧ p.word = cw := by
  rcases hp : s.ports with _ | ⟨p, rest⟩
  · rw [acceptedNow_nil hp] at h; cases h
  · rw [acceptedNow_cons hp] at h
    split at h
    case isTrue hc => exact ⟨p, rest, rfl, hc.1, hc.2.1, hc.2.2, Option.some.inj h⟩
    case isFalse => cases h

/-! ### A host that holds its words (70_reset_and_hazards.md R209) -/

/-- What a host does that offers a word, does not get it accepted and makes no forbidden move. -/
theorem holdsOffer_next (h : s.holdsOffer = true) (hp : s.ports = p :: rest) (hv : p.cmdValid = true)
    (ha : s.acceptedNow = none) : ∃ q rest', rest = q :: rest' ∧ q.cmdValid = true ∧ q.word = p.word := by
  simp only [State.holdsOffer, hp, hv, ha] at h
  cases rest with
  | nil => simp [offersNext] at h
  | cons q rest' => exact ⟨q, rest', rfl, by simpa [offersNext] using h⟩

/-! ### One step of a run -/

theorem run_succ (h : step s = .next t) :
    Host.Core.run Sys2Proof.core (n + 1) s = Host.Core.run Sys2Proof.core n t := by
  simp only [Host.Core.run, Sys2Proof.core, h]

theorem accepted_succ (h : step s = .next t) : accepted (n + 1) s = s.acceptedNow.toList ++ accepted n t := by
  simp only [accepted, h]

theorem responses_succ (h : step s = .next t) : responses (n + 1) s = (produced s t).toList ++ responses n t := by
  simp only [responses, h]

theorem hostAllowed_succ (h : step s = .next t) :
    hostAllowed (n + 1) s = true ↔ s.holdsOffer = true ∧ hostAllowed n t = true := by
  simp only [hostAllowed, h, Bool.and_eq_true]

theorem initFirst_succ (h : step s = .next t) (hi : initFirst (n + 1) s = true) :
    initFirst n t = true ∧
    (s.valid = false → ∀ cw, s.acceptedNow = some cw → ∃ i, decode cw = some i ∧ i.isInit = true) := by
  simp only [initFirst, h, Bool.and_eq_true, Bool.or_eq_true] at hi
  refine ⟨hi.2, fun hv cw ha => ?_⟩
  rcases hi.1 with hv' | hc
  · exact absurd hv' (by simp [hv])
  · simp only [ha] at hc
    cases hd : decode cw with
    | none => simp [hd] at hc
    | some i => exact ⟨i, rfl, by simpa [hd] using hc⟩

/-- The observation, once the last state is known. -/
theorem observe_of_run (h : Host.Core.run Sys2Proof.core n s = .next t) :
    observe n s = some ⟨(responses n s).map Response.shown, t.status⟩ := by
  simp only [observe, h]

/-! ### Words one after the other -/

theorem runWords_cons {ws : List CmdWord} (h : step ((s.setPorts []).offerWord cw) = .next t) :
    runWords (cw :: ws) s = (t.rsp.toList ++ (runWords ws t).1, (runWords ws t).2) := by
  simp only [runWords, h]

/-- A word offered alone to a block with an empty slot is executed. -/
theorem step_offerWord (s : State) (cw : CmdWord) :
    step ((s.setPorts []).offerWord cw) =
      match decode cw with
      | some i => exec i (s.setPorts []).takeRsp
      | none => .next (runIllegal (s.setPorts []).takeRsp) := by
  rw [step_cons (p := offer cw) (rest := []) rfl, edgeOf_accept rfl rfl rfl,
    show (offer cw).word = cw from cwPack_fields cw]
  rfl

end Sys2Proof.Machine
end

