-- ==== Sys2Proof/Laws/Write.lean ====
section
/-! SUPPORT. Everything WRITE's pseudocode can do, said once: the defined bytes and the beat are one sequence, its complete
blocks are mixed in order, its rest is pending (41_streaming_control.md R124, R125). -/

namespace Sys2Proof.Machine

variable {s : State}

/-! ### Folding blocks -/

theorem foldBlocks_zero (bytes : List Byte) (acc : Word × Word) : foldBlocks 0 bytes acc = acc := rfl

theorem foldBlocks_succ (n : Nat) (bytes : List Byte) (acc : Word × Word) :
    foldBlocks (n + 1) bytes acc = foldBlocks n (bytes.drop 16) (blockMix acc.1 acc.2 (bytes.take 16)) := rfl

/-- Blocks are folded in order: the first `m`, then the next `n`. -/
theorem foldBlocks_add (m n : Nat) (bytes : List Byte) (acc : Word × Word) :
    foldBlocks (m + n) bytes acc = foldBlocks n (bytes.drop (16 * m)) (foldBlocks m bytes acc) := by
  induction m generalizing bytes acc with
  | zero => simp [foldBlocks_zero]
  | succ m ih =>
    rw [show m + 1 + n = (m + n) + 1 by omega, foldBlocks_succ, ih, foldBlocks_succ, List.drop_drop,
      show 16 + 16 * m = 16 * (m + 1) by omega]

/-- Only the bytes of the blocks folded matter. -/
theorem foldBlocks_append (n : Nat) (bytes more : List Byte) (acc : Word × Word) (h : 16 * n ≤ bytes.length) :
    foldBlocks n (bytes ++ more) acc = foldBlocks n bytes acc := by
  induction n generalizing bytes acc with
  | zero => rw [foldBlocks_zero, foldBlocks_zero]
  | succ n ih =>
    rw [foldBlocks_succ, foldBlocks_succ, List.take_append_of_le_length (by omega),
      List.drop_append_of_le_length (by omega), ih _ _ (by rw [List.length_drop]; omega)]

/-! ### Step 2 of WRITE -/

theorem absorbBlocks_zero (bytes : List Byte) : s.absorbBlocks 0 bytes = s := rfl

theorem absorbBlocks_succ (n : Nat) (bytes : List Byte) :
    s.absorbBlocks (n + 1) bytes = (s.absorb (bytes.take 16)).absorbBlocks n (bytes.drop 16) := rfl

theorem absorbBlocks_acc (n : Nat) (bytes : List Byte) :
    ((s.absorbBlocks n bytes).h1, (s.absorbBlocks n bytes).h2) = foldBlocks n bytes (s.h1, s.h2) := by
  induction n generalizing s bytes with
  | zero => rfl
  | succ n ih => rw [absorbBlocks_succ, ih, foldBlocks_succ, State.absorb_h1, State.absorb_h2]

/-- Sixteen bytes and then the bytes of `n` more blocks. -/
theorem add64_blocks (v : Word) (n : Nat) :
    add64 v 16 + BitVec.ofNat 64 (16 * n) = v + BitVec.ofNat 64 (16 * (n + 1)) := by
  rw [add64, BitVec.add_comm 16, show (16 : Word) = BitVec.ofNat 64 16 from rfl, BitVec.add_assoc, ← BitVec.ofNat_add, Nat.add_comm 16, Nat.mul_add, Nat.mul_one]

theorem absorbBlocks_consumed (n : Nat) (bytes : List Byte) :
    (s.absorbBlocks n bytes).consumed = s.consumed + BitVec.ofNat 64 (16 * n) := by
  induction n generalizing s bytes with
  | zero => rw [absorbBlocks_zero]; simp
  | succ n ih => rw [absorbBlocks_succ, ih, State.absorb_consumed, add64_blocks]

@[simp] theorem State.absorbBlocks_ports (s : State) (n : Nat) (bytes : List Byte) :
    (s.absorbBlocks n bytes).ports = s.ports := by
  induction n generalizing s bytes with
  | zero => rw [absorbBlocks_zero]
  | succ n ih => rw [absorbBlocks_succ, ih, State.absorb_ports]

@[simp] theorem State.absorbBlocks_seed (s : State) (n : Nat) (bytes : List Byte) :
    (s.absorbBlocks n bytes).seed = s.seed := by
  induction n generalizing s bytes with
  | zero => rw [absorbBlocks_zero]
  | succ n ih => rw [absorbBlocks_succ, ih, State.absorb_seed]

@[simp] theorem State.absorbBlocks_plen (s : State) (n : Nat) (bytes : List Byte) :
    (s.absorbBlocks n bytes).plen = s.plen := by
  induction n generalizing s bytes with
  | zero => rw [absorbBlocks_zero]
  | succ n ih => rw [absorbBlocks_succ, ih, State.absorb_plen]

@[simp] theorem State.absorbBlocks_pend (s : State) (n : Nat) (bytes : List Byte) :
    (s.absorbBlocks n bytes).pend = s.pend := by
  induction n generalizing s bytes with
  | zero => rw [absorbBlocks_zero]
  | succ n ih => rw [absorbBlocks_succ, ih, State.absorb_pend]

@[simp] theorem State.absorbBlocks_valid (s : State) (n : Nat) (bytes : List Byte) :
    (s.absorbBlocks n bytes).valid = s.valid := by
  induction n generalizing s bytes with
  | zero => rw [absorbBlocks_zero]
  | succ n ih => rw [absorbBlocks_succ, ih, State.absorb_valid]

@[simp] theorem State.absorbBlocks_done (s : State) (n : Nat) (bytes : List Byte) :
    (s.absorbBlocks n bytes).done = s.done := by
  induction n generalizing s bytes with
  | zero => rw [absorbBlocks_zero]
  | succ n ih => rw [absorbBlocks_succ, ih, State.absorb_done]

@[simp] theorem State.absorbBlocks_err (s : State) (n : Nat) (bytes : List Byte) :
    (s.absorbBlocks n bytes).err = s.err := by
  induction n generalizing s bytes with
  | zero => rw [absorbBlocks_zero]
  | succ n ih => rw [absorbBlocks_succ, ih, State.absorb_err]

@[simp] theorem State.absorbBlocks_errcode (s : State) (n : Nat) (bytes : List Byte) :
    (s.absorbBlocks n bytes).errcode = s.errcode := by
  induction n generalizing s bytes with
  | zero => rw [absorbBlocks_zero]
  | succ n ih => rw [absorbBlocks_succ, ih, State.absorb_errcode]

@[simp] theorem State.absorbBlocks_rsp (s : State) (n : Nat) (bytes : List Byte) :
    (s.absorbBlocks n bytes).rsp = s.rsp := by
  induction n generalizing s bytes with
  | zero => rw [absorbBlocks_zero]
  | succ n ih => rw [absorbBlocks_succ, ih, State.absorb_rsp]

@[simp] theorem State.absorbBlocks_fresh (s : State) (n : Nat) (bytes : List Byte) :
    (s.absorbBlocks n bytes).fresh = s.fresh := by
  induction n generalizing s bytes with
  | zero => rw [absorbBlocks_zero]
  | succ n ih => rw [absorbBlocks_succ, ih, State.absorb_fresh]

/-! ### The frame of WRITE -/

@[simp] theorem State.topUp_ports (s : State) (bytes : List Byte) : (s.topUp bytes).ports = s.ports := by
  rw [State.topUp, State.emptyPend_ports, State.absorb_ports]
@[simp] theorem writeRest_ports (bytes : List Byte) (s : State) : (writeRest bytes s).ports = s.ports := by
  rw [writeRest, State.putPend_ports, State.absorbBlocks_ports]
@[simp] theorem writeBody_ports (bytes : List Byte) (s : State) : (writeBody bytes s).ports = s.ports := by
  unfold writeBody
  split
  · rw [writeRest_ports]
  · split
    · rw [State.putPend_ports]
    · rw [writeRest_ports, State.topUp_ports]

@[simp] theorem State.topUp_seed (s : State) (bytes : List Byte) : (s.topUp bytes).seed = s.seed := by
  rw [State.topUp, State.emptyPend_seed, State.absorb_seed]
@[simp] theorem writeRest_seed (bytes : List Byte) (s : State) : (writeRest bytes s).seed = s.seed := by
  rw [writeRest, State.putPend_seed, State.absorbBlocks_seed]
@[simp] theorem writeBody_seed (bytes : List Byte) (s : State) : (writeBody bytes s).seed = s.seed := by
  unfold writeBody
  split
  · rw [writeRest_seed]
  · split
    · rw [State.putPend_seed]
    · rw [writeRest_seed, State.topUp_seed]

@[simp] theorem State.topUp_valid (s : State) (bytes : List Byte) : (s.topUp bytes).valid = s.valid := by
  rw [State.topUp, State.emptyPend_valid, State.absorb_valid]
@[simp] theorem writeRest_valid (bytes : List Byte) (s : State) : (writeRest bytes s).valid = s.valid := by
  rw [writeRest, State.putPend_valid, State.absorbBlocks_valid]
@[simp] theorem writeBody_valid (bytes : List Byte) (s : State) : (writeBody bytes s).valid = s.valid := by
  unfold writeBody
  split
  · rw [writeRest_valid]
  · split
    · rw [State.putPend_valid]
    · rw [writeRest_valid, State.topUp_valid]

@[simp] theorem State.topUp_done (s : State) (bytes : List Byte) : (s.topUp bytes).done = s.done := by
  rw [State.topUp, State.emptyPend_done, State.absorb_done]
@[simp] theorem writeRest_done (bytes : List Byte) (s : State) : (writeRest bytes s).done = s.done := by
  rw [writeRest, State.putPend_done, State.absorbBlocks_done]
@[simp] theorem writeBody_done (bytes : List Byte) (s : State) : (writeBody bytes s).done = s.done := by
  unfold writeBody
  split
  · rw [writeRest_done]
  · split
    · rw [State.putPend_done]
    · rw [writeRest_done, State.topUp_done]

@[simp] theorem State.topUp_err (s : State) (bytes : List Byte) : (s.topUp bytes).err = s.err := by
  rw [State.topUp, State.emptyPend_err, State.absorb_err]
@[simp] theorem writeRest_err (bytes : List Byte) (s : State) : (writeRest bytes s).err = s.err := by
  rw [writeRest, State.putPend_err, State.absorbBlocks_err]
@[simp] theorem writeBody_err (bytes : List Byte) (s : State) : (writeBody bytes s).err = s.err := by
  unfold writeBody
  split
  · rw [writeRest_err]
  · split
    · rw [State.putPend_err]
    · rw [writeRest_err, State.topUp_err]

@[simp] theorem State.topUp_errcode (s : State) (bytes : List Byte) : (s.topUp bytes).errcode = s.errcode := by
  rw [State.topUp, State.emptyPend_errcode, State.absorb_errcode]
@[simp] theorem writeRest_errcode (bytes : List Byte) (s : State) : (writeRest bytes s).errcode = s.errcode := by
  rw [writeRest, State.putPend_errcode, State.absorbBlocks_errcode]
@[simp] theorem writeBody_errcode (bytes : List Byte) (s : State) : (writeBody bytes s).errcode = s.errcode := by
  unfold writeBody
  split
  · rw [writeRest_errcode]
  · split
    · rw [State.putPend_errcode]
    · rw [writeRest_errcode, State.topUp_errcode]

@[simp] theorem State.topUp_rsp (s : State) (bytes : List Byte) : (s.topUp bytes).rsp = s.rsp := by
  rw [State.topUp, State.emptyPend_rsp, State.absorb_rsp]
@[simp] theorem writeRest_rsp (bytes : List Byte) (s : State) : (writeRest bytes s).rsp = s.rsp := by
  rw [writeRest, State.putPend_rsp, State.absorbBlocks_rsp]
@[simp] theorem writeBody_rsp (bytes : List Byte) (s : State) : (writeBody bytes s).rsp = s.rsp := by
  unfold writeBody
  split
  · rw [writeRest_rsp]
  · split
    · rw [State.putPend_rsp]
    · rw [writeRest_rsp, State.topUp_rsp]

/-! ### What WRITE does -/

/-- The accumulator and the count after the blocks of `all` have been mixed in `s`, and what is then pending. -/
structure Absorbed (all : List Byte) (s t : State) : Prop where
  acc_eq : (t.h1, t.h2) = foldBlocks (all.length / 16) all (s.h1, s.h2)
  consumed_eq : t.consumed = s.consumed + BitVec.ofNat 64 (16 * (all.length / 16))
  plen_eq : t.plen.toNat = all.length % 16
  pending_eq : t.pending = all.drop (16 * (all.length / 16))

/-- Steps 2 and 3. -/
theorem writeRest_absorbed (bytes : List Byte) (s : State) : Absorbed bytes s (writeRest bytes s) := by
  have hl : (bytes.drop (16 * (bytes.length / 16))).length = bytes.length % 16 := by
    rw [List.length_drop]; omega
  constructor
  · rw [writeRest, State.putPend_h1, State.putPend_h2, absorbBlocks_acc]
  · rw [writeRest, State.putPend_consumed, absorbBlocks_consumed]
  · rw [writeRest, State.putPend_plen, BitVec.toNat_ofNat, hl]; omega
  · rw [writeRest, pending_putPend (by rw [hl]; omega), List.take_zero, List.nil_append]

/-- Steps 1 to 3. -/
theorem writeBody_absorbed (bytes : List Byte) (s : State) : Absorbed (s.pending ++ bytes) s (writeBody bytes s) := by
  have hp := pending_length s
  have h4 : s.plen.toNat < 16 := s.plen.isLt
  unfold writeBody
  split
  case isTrue h =>
    rw [pending_of_plen_zero h, List.nil_append]
    exact writeRest_absorbed bytes s
  case isFalse h =>
    have hpos : s.plen.toNat ≠ 0 := fun hz => h (BitVec.eq_of_toNat_eq (by simpa using hz))
    split
    case isTrue hn =>
      have hl : (s.pending ++ bytes).length = s.plen.toNat + bytes.length := by rw [List.length_append, hp]
      have hd : (s.pending ++ bytes).length / 16 = 0 := by rw [hl]; omega
      constructor
      · rw [hd, foldBlocks_zero, State.putPend_h1, State.putPend_h2]
      · rw [hd, State.putPend_consumed]; simp
      · rw [State.putPend_plen, BitVec.toNat_ofNat, hl]
      · rw [hd, pending_putPend (by omega)]; rfl
    case isFalse hn =>
      have hr := writeRest_absorbed (bytes.drop (16 - s.plen.toNat)) (s.topUp bytes)
      have hle : (bytes.drop (16 - s.plen.toNat)).length = bytes.length - (16 - s.plen.toNat) := List.length_drop
      have hl : (s.pending ++ bytes).length = 16 + (bytes.drop (16 - s.plen.toNat)).length := by
        rw [List.length_append, hp, hle]; omega
      have hq : (s.pending ++ bytes).length / 16 = (bytes.drop (16 - s.plen.toNat)).length / 16 + 1 := by rw [hl]; omega
      have htake : (s.pending ++ bytes).take 16 = s.pending ++ bytes.take (16 - s.plen.toNat) := by
        rw [List.take_append, hp, List.take_of_length_le (by omega)]
      have hdrop : (s.pending ++ bytes).drop 16 = bytes.drop (16 - s.plen.toNat) := by
        rw [List.drop_append, hp, List.drop_of_length_le (by omega), List.nil_append]
      constructor
      · rw [hr.acc_eq, hq, foldBlocks_succ, htake, hdrop, State.topUp, State.emptyPend_h1, State.emptyPend_h2,
          State.absorb_h1, State.absorb_h2]
      · rw [hr.consumed_eq, hq, State.topUp, State.emptyPend_consumed, State.absorb_consumed, add64_blocks]
      · rw [hr.plen_eq, hl]; omega
      · rw [hr.pending_eq, hq, Nat.mul_add, Nat.mul_one, Nat.add_comm, ← List.drop_drop, hdrop]

end Sys2Proof.Machine
end

