-- ==== Sys2Proof/Tests/Slice0.lean ====
section
/-! SUPPORT. Tests of the model on values the spec prints (95_test_vectors.md and the examples of the rules; P, F and K name
its programs, fault programs and vectors), and for every statement with hypotheses a concrete instance that meets them. -/

namespace Sys2Proof.Tests

open Sys2Proof.Machine Sys2Proof.Certificates.Slice0

/-! ### Helpers -/

/-- The outcome is a next state with the property `p`. -/
def nextIs (o : Host.Outcome State Fault Refusal) (p : State → Bool) : Bool :=
  match o with
  | .next t => p t
  | .fault _ => false
  | .refused _ => false

/-- An open session with seed 0 and nothing written. -/
def opened : State := { State.reset with valid := true }

/-- An open session with the accumulator, count and pending bytes given. -/
def session (seed h1 h2 consumed : Word) (pending : List Byte) : State :=
  { opened with
    seed := seed, h1 := h1, h2 := h2, consumed := consumed,
    pend := putBytes 0 pending State.reset.pend, plen := BitVec.ofNat 4 pending.length }

/-- The bytes `first`, `first + 1`, ..., `n` of them. -/
def count (first n : Nat) : List Byte := (List.range n).map fun i => BitVec.ofNat 8 (first + i)

/-- The state with one port sample to come. -/
def driven (s : State) (p : PortSample) : State := { s with ports := [p] }

/-- A sample with everything at 0. -/
def quiet : PortSample := ⟨false, false, 0, 0, 0, false⟩

/-- A finalized session whose response waits. -/
def waiting : State := { opened with done := true, rsp := some ⟨.digest128, false, 0⟩ }

/-- A block faulted by an illegal word. -/
def faulted : State := { State.reset with err := true, errcode := 1 }

/-- A host that offers INIT 0, WRITE of one byte and FINAL. -/
def hashing : State :=
  { State.reset with ports := ([.init 0, .write [0x31], .final].map fun i => offer (encode i)) ++ [takeSample] }

/-- A faulted block whose host resets it, pauses, and has INIT 0, WRITE of one byte and FINAL accepted; it offers INIT
already while `rst = 1` and holds it. -/
def pacing : State :=
  { faulted with ports :=
      [{ offer 0x01 with rst := true }, offer 0x01, quiet, offer 0x310a, offer 0x03, takeSample, quiet] }

/-- A finalized session with its digest (K2) waiting. -/
def answered : State :=
  { session 0 0 0 0 [0x31] with
    done := true, rsp := some ⟨.digest128, false, 0x71fbbbfe8a7b7c71942aeb9bf9f0f637⟩ }

/-- A faulted block with the response of a refused FINAL waiting. -/
def turnedAway : State := { faulted with rsp := some ⟨.digest128, true, 0⟩ }

/-- The host offers RESET while the response waits, takes the response, and then offers INIT instead: R209's forbidden move. -/
def fickle : State := { answered with ports := [{ offer 0x05 with rspReady := true }, offer 0x01] }

/-! ### Well-formedness: an ill-formed term for each check -/

theorem test_wf_write_too_long : (Instr.write (count 0 16)).wf = false := by decide
theorem test_wf_write16_short : (Instr.write16 (count 0 15)).wf = false := by decide
theorem test_wf_ok : (Instr.write (count 0 15)).wf = true ∧ (Instr.write16 (count 0 16)).wf = true := by decide

/-! ### Decoding: words written out from the fields of 30_encoding.md R72 (data, len, op) -/

-- R84: INIT 0x0123456789abcdef.
theorem test_decode_init :
    decode (0x00000000000000000123456789abcdef#128 ++ 0b00000#5 ++ 0b001#3) = some (.init 0x0123456789abcdef) := by decide
-- R84: WRITE "12345".
theorem test_decode_write :
    decode (0x00000000000000000000003534333231#128 ++ 0b00101#5 ++ 0b010#3) =
      some (.write [0x31, 0x32, 0x33, 0x34, 0x35]) := by decide
-- P3: WRITE of "123456789abcdef1".
theorem test_decode_write16 :
    decode (0x31666564636261393837363534333231#128 ++ 0b10000#5 ++ 0b010#3) =
      some (.write16 [0x31, 0x32, 0x33, 0x34, 0x35, 0x36, 0x37, 0x38, 0x39, 0x61, 0x62, 0x63, 0x64, 0x65, 0x66, 0x31]) := by
  decide
-- 95 section 9, ignored bits: FINAL with non-zero data.
theorem test_decode_final : decode (0x00000000000000000000000000abcdef#128 ++ 0b00000#5 ++ 0b011#3) = some .final := by decide
theorem test_decode_final64 : decode (0#128 ++ 0b00000#5 ++ 0b100#3) = some .final64 := by decide
theorem test_decode_reset : decode (0#128 ++ 0b00000#5 ++ 0b101#3) = some .reset := by decide
-- 95 section 9, ignored bits: INIT with upper lanes set, WRITE with fifteen lanes of ff.
theorem test_decode_ignored_lanes :
    decode 0xdeadbeefdeadbeef000000000000000001 = some (.init 0) ∧
    decode 0xffffffffffffffffffffffffffffff310a = some (.write [0x31]) := by decide
-- 95 section 9: illegal control bytes.
theorem test_decode_illegal :
    [0x00, 0x09, 0x8a, 0xfa, 0x0b, 0x83, 0x0d, 0x06, 0x07, 0xff].all
      (fun ctl => (decode (BitVec.ofNat 136 ctl)).isNone) = true := by decide
-- R74: 21 of the 256 control bytes are legal.
theorem test_decode_count :
    ((List.range 256).filter fun ctl => (decode (BitVec.ofNat 136 ctl)).isSome).length = 21 := by decide
-- 92 D23: without FINAL64 its opcode is reserved.
theorem test_decode_without_final64 : decodeWith false 0x04 = none := by decide
-- R84: the encoder's word for WRITE "6789abcdef1".
theorem test_encode_write :
    encode (.write [0x36, 0x37, 0x38, 0x39, 0x61, 0x62, 0x63, 0x64, 0x65, 0x66, 0x31]) =
      0x000000000031666564636261393837365a := by decide
theorem test_table_word : decodeTableWord 136 0x82 = some (.write16 (List.replicate 16 0)) := by decide

/-! ### Datapath (95 sections 4 to 6) -/

theorem test_add64_wraps : add64 0xffffffffffffffff 1 = 0 := by decide
theorem test_mul64_low_half : mul64 Config.c1 Config.c2 = 0xcf853d45b173e5ab := by decide
theorem test_rotl64 : rotl64 0x0123456789abcdef 33 = 0x13579bde02468acf := by decide
theorem test_shr64_logical : shr64 0x8000000000000000 33 = 0x0000000040000000 := by decide
theorem test_bytepos : bytepos 0xff 7 = 0xff00000000000000 := by decide
theorem test_mul5add : mul5add 0xffffffffffffffff Config.n1 = 0x0000000052dce724 := by decide
theorem test_mixK1 : mixK1 0x31 = 0x850bf44e22bfa39e := by decide
theorem test_mixK2 : mixK2 1 = 0x4e26f5539bb7c37e := by decide
theorem test_blockMix :
    blockMix 0x0123456789abcdef 0x0123456789abcdef (count 0 16) = (0xf52d31d54df22bbd, 0x3cee9191a8fb0e18) := by decide
theorem test_fmix64 : fmix64 0x8000000000000000 = 0x8f780810af31a493 := by decide
-- 95 section 2, row 9: the k2 gate.
theorem test_tail_nine_bytes :
    tailFold 0 0 [0x31, 0x32, 0x33, 0x34, 0x35, 0x36, 0x37, 0x38, 0x39] 9 = (0x7ed3a556f1c38e43, 0x1fd8b1f5d1521833) := by
  decide
-- 95 section 8.3: the 40 bytes 00..27, seed 7.
theorem test_mm3 : mm3 7 (count 0 40) = (0x345a060429ccb14b, 0xe3e244e7186f73c9) := by decide

/-! ### Commands -/

-- R122, the example, over an open session.
theorem test_init :
    nextIs (exec (.init 0x0123456789abcdef) (session 1 2 3 16 (count 0 3)))
      (fun t => t.seed == 0x0123456789abcdef && t.h1 == t.seed && t.h2 == t.seed && t.consumed == 0 && t.plen == 0 &&
        t.status == 0b00001) = true := by decide
-- R124, the example.
theorem test_write_completes_block :
    nextIs (exec (.write [0x36, 0x37, 0x38, 0x39, 0x61, 0x62, 0x63, 0x64, 0x65, 0x66, 0x31])
        (session 0 0 0 0 [0x31, 0x32, 0x33, 0x34, 0x35]))
      (fun t => t.h1 == 0x95c68e3adeadf8fb && t.h2 == 0xfbf01b620dd03066 && t.consumed == 16 && t.plen == 0) = true := by
  decide
-- P4, command 4: case c.
theorem test_write_stays_pending :
    nextIs (exec (.write (count 0x17 8)) (session 0x0123456789abcdef 5 6 16 (count 0x10 7)))
      (fun t => t.h1 == 5 && t.h2 == 6 && t.consumed == 16 && t.pending == count 0x10 15) = true := by decide
-- P4, command 3: case d, nine bytes top up and seven remain.
theorem test_write16_tops_up :
    nextIs (exec (.write16 (count 7 16))
        (session 0x0123456789abcdef 0x0123456789abcdef 0x0123456789abcdef 0 (count 0 7)))
      (fun t => t.h1 == 0xf52d31d54df22bbd && t.h2 == 0x3cee9191a8fb0e18 && t.consumed == 16 &&
        t.pending == count 0x10 7) = true := by decide
-- P4, command 8: case b.
theorem test_write16_whole_block :
    nextIs (exec (.write16 (count 0 16)) (session 0 0x0123456789abcdef 0x0123456789abcdef 0 []))
      (fun t => t.h1 == 0xf52d31d54df22bbd && t.h2 == 0x3cee9191a8fb0e18 && t.plen == 0) = true := by decide
-- K2.
theorem test_final :
    nextIs (exec .final (session 0 0 0 0 [0x31]))
      (fun t => t.rsp == some ⟨.digest128, false, 0x71fbbbfe8a7b7c71942aeb9bf9f0f637⟩ && t.status == 0b00011) = true := by
  decide
-- P5: the tail of eleven bytes that decides the k2 gate.
theorem test_final_eleven_pending :
    nextIs (exec .final (session 0 0xef7ef36e84b36d66 0x20112c4dac59411d 32
        [0x68, 0x65, 0x20, 0x6c, 0x61, 0x7a, 0x79, 0x20, 0x64, 0x6f, 0x67]))
      (fun t => t.rsp == some ⟨.digest128, false, 0xe34bbc7bbc071b6c7a433ca9c49a9347⟩) = true := by decide
-- P2, the last command: FINAL64 in a finalized session.
theorem test_final64 :
    nextIs (exec .final64 { session 0 0 0 0 [0x31] with done := true })
      (fun t => t.rsp == some ⟨.digest64, false, 0x000000000000000071fbbbfe8a7b7c71⟩) = true := by decide
-- R123, the example.
theorem test_reset :
    nextIs (exec .reset { session 0x0123456789abcdef 0xf52d31d54df22bbd 0x3cee9191a8fb0e18 16 (count 0x10 15) with done := true })
      (fun t => t.h1 == 0x0123456789abcdef && t.h2 == 0x0123456789abcdef && t.consumed == 0 && t.plen == 0 && !t.done &&
        t.seed == 0x0123456789abcdef) = true := by decide
-- F2: WRITE after FINAL.
theorem test_write_after_final :
    nextIs (exec (.write [0x32]) { session 0 0 0 0 [0x31] with done := true })
      (fun t => t.status == 0x1f && t.pending == [0x31]) = true := by decide
-- F6: FINAL before INIT still answers.
theorem test_final_before_init :
    nextIs (exec .final State.reset)
      (fun t => t.status == 0x14 && t.rsp.map (fun r => (r.kind, r.err)) == some (.digest128, true)) = true := by decide
-- F9: RESET before INIT.
theorem test_reset_before_init : nextIs (exec .reset State.reset) (fun t => t.status == 0x14 && t.rsp == none) = true := by decide

/-! ### The step -/

-- F4: the illegal word comes before the missing session.
theorem test_step_illegal_word : nextIs (step (State.reset.withFetchWord 136 0x8a)) (fun t => t.status == 0x0c) = true := by decide
theorem test_step_runs_first_word :
    nextIs (step (State.reset.withFetchWord 136 0x0501)) (fun t => t.status == 0x01 && t.seed == 5 && t.ports == []) = true := by
  decide
-- R71: a command offered while RSP is full is not accepted; the host takes the response.
theorem test_step_takes_response :
    nextIs (step (driven waiting ⟨false, true, 5, 0, 0, true⟩)) (fun t => t.rsp == none && t.done) = true := by decide
-- R201.
theorem test_step_reset_wins :
    nextIs (step (driven waiting ⟨true, true, 1, 0, 7, true⟩)) (fun t => t.rsp == none && t.status == 0) = true := by decide
theorem test_outputs : waiting.outputs false = ⟨false, true, some ⟨.digest128, false, 0⟩, 0b00011⟩ := by decide

/-! ### Runs -/

-- R209: the host may not change a word that was offered and not accepted, and may hold it as long as it waits.
theorem test_host_may_not_change_word : hostAllowed 2 fickle = false := by decide
theorem test_host_may_hold_word : hostAllowed 2 { waiting with ports := [offer 0x05, { offer 0x05 with rspReady := true }, offer 0x05] } = true := by
  decide
-- F6: FINAL before INIT; the observation shows no data, and the host is not one that issues INIT first.
theorem test_observe_refused_final :
    observe 2 { State.reset with ports := [offer 0x03, takeSample] } = some ⟨[(.digest128, true, none)], 0x14⟩ ∧
    initFirst 2 { State.reset with ports := [offer 0x03, takeSample] } = false := by decide
-- R210: no steps at all are no run, though the first sample asserts rst.
theorem test_no_steps_no_run : ¬IsRun 0 pacing ∧ IsRun 1 pacing := by decide
-- R210: idle samples left over do not keep a run from ending; a response not taken does.
theorem test_ended : Ended (driven opened takeSample) ∧ ¬Ended (driven waiting quiet) := by decide

/-! ### Programs and text -/

-- R82.
theorem test_hash128_expansion :
    hash128 0 (count 0 17) = [.init 0, .write16 (count 0 16), .write [0x10], .final] := by decide
theorem test_text : instrChars (.write [0x01, 0xab]) = "WRITE 01 ab".toList := by decide

/-! ### Witnesses: the hypotheses of each statement hold together -/

theorem view_of_one_byte : View 0 [0x31] (session 0 0 0 0 [0x31]) :=
  ⟨by decide, by decide, by decide, by decide, by decide⟩

theorem witness_StepRunsDecodedCommand :
    (driven opened (offer 0x310a)).ports = offer 0x310a :: [] ∧ (offer 0x310a).rst = false ∧
    (offer 0x310a).cmdValid = true ∧ opened.rsp = none ∧ decode (offer 0x310a).word = some (.write [0x31]) := by decide
theorem witness_StepRefusesIllegalWord :
    (driven opened (offer 0x07)).ports = offer 0x07 :: [] ∧ (offer 0x07).rst = false ∧ (offer 0x07).cmdValid = true ∧
    opened.rsp = none ∧ decode (offer 0x07).word = none := by decide
theorem witness_IllegalWordsExactly : decode 0x8a = none ∧ opened.rsp = none := by decide
theorem witness_HardwareResetHasPriority :
    (driven waiting { quiet with rst := true }).ports = { quiet with rst := true } :: [] ∧
    ({ quiet with rst := true } : PortSample).rst = true ∧
    ({ offer 0x01 with rst := true } : PortSample).rst = true := by decide
/-- Its last clause: a faulted block that a hardware reset clears. -/
theorem witness_HardwareResetHasPriority_err :
    (driven faulted { quiet with rst := true }).err = true ∧
    nextIs (step (driven faulted { quiet with rst := true })) (fun t => !t.err) = true := by decide
theorem witness_WaitingResponseIsKept :
    waiting.rsp = some ⟨.digest128, false, 0⟩ ∧ (driven waiting quiet).ports = quiet :: [] ∧ quiet.rst = false ∧
    nextIs (step (driven waiting quiet)) (fun t => t == waiting) = true := by decide
theorem witness_IdleEdgeKeepsState :
    opened.ports = [] ∧
    ((driven waiting quiet).ports = quiet :: [] ∧ quiet.rst = false ∧ quiet.cmdValid = false ∧ quiet.rspReady = false) ∧
    ((driven opened takeSample).ports = takeSample :: [] ∧ takeSample.rst = false ∧ takeSample.cmdValid = false ∧
      opened.rsp = none) := by decide
theorem witness_DecodeOfEncode : (Instr.write (count 0 15)).wf = true ∧ (Instr.write16 (count 0 16)).wf = true := by decide
theorem witness_IgnoredBitsHaveNoEffect_init :
    cwCtl 0xdeadbeefdeadbeef000000000000000001 = cwCtl 0x01 ∧ cwOp 0x01 = 1 ∧
    seedOf (cwData 0xdeadbeefdeadbeef000000000000000001) = seedOf (cwData 0x01) ∧
    cwOp 0xdeadbeefdeadbeef000000000000000001 ≠ 2 := by decide
theorem witness_IgnoredBitsHaveNoEffect_write :
    cwCtl 0xffffffffffffffffffffffffffffff310a = cwCtl 0x310a ∧ cwOp 0xffffffffffffffffffffffffffffff310a = 2 ∧
    ∀ j, j < (cwLen 0xffffffffffffffffffffffffffffff310a).toNat →
      laneByte (cwData 0xffffffffffffffffffffffffffffff310a) j = laneByte (cwData 0x310a) j := by decide
theorem witness_DecodedCommandsReencode : decode 0x82 = some (.write16 (List.replicate 16 0)) := by decide
theorem witness_RotateMovesEveryBit : 1 ≤ 63 ∧ 63 ≤ 63 ∧ 63 < 64 := by decide
theorem witness_MemReadIsLittleEndian : 7 < 8 := by decide
theorem witness_MulFromLimbs :
    (0x0001000200030004 : Word).toNat = 1 * 2 ^ 48 + 2 * 2 ^ 32 + 3 * 2 ^ 16 + 4 ∧
    (0xffffffffffffffff : Word).toNat = 65535 * 2 ^ 48 + 65535 * 2 ^ 32 + 65535 * 2 ^ 16 + 65535 := by decide
theorem witness_TailFoldClosedForm : 15 ≤ 15 ∧ 15 ≤ (count 0 15).length := by decide
theorem witness_TotalLengthIsConcatenation : (session 0 0 0 48 (count 0 15)).consumed.extractLsb' 0 4 = 0 := by decide
theorem witness_InitConstructsSession : State.reset.err = false := by decide
theorem witness_ResetRestartsSession : opened.err = false ∧ opened.valid = true := by decide
theorem witness_ResetEquivalence :
    opened.err = false ∧ opened.valid = true ∧ AllWrites [.write [0x31], .write16 (count 0 16)] := by decide
theorem witness_WriteCases_no_block :
    WriteOf (.write (count 0 10)) (count 0 10) ∧ WriteReady (session 0 0 0 0 (count 0 5)) ∧
    (session 0 0 0 0 (count 0 5)).plen.toNat + (count 0 10).length < 16 := by decide
theorem witness_WriteCases_block :
    WriteOf (.write (count 0 11)) (count 0 11) ∧ WriteReady (session 0 0 0 0 (count 0 5)) ∧
    16 ≤ (session 0 0 0 0 (count 0 5)).plen.toNat + (count 0 11).length := by decide
theorem witness_WriteCases_write16 :
    WriteOf (.write16 (count 0 16)) (count 0 16) ∧ WriteReady opened ∧ 16 ≤ opened.plen.toNat + (count 0 16).length := by decide
theorem witness_EmptyWriteChangesNothing : WriteReady (session 0 0 0 0 (count 0 15)) := by decide
theorem witness_WriteExtendsMessage :
    View 0 [0x31] (session 0 0 0 0 [0x31]) ∧ WriteOf (.write16 (count 0 16)) (count 0 16) ∧
    WriteReady (session 0 0 0 0 [0x31]) :=
  ⟨view_of_one_byte, by decide, by decide⟩
theorem witness_StreamingEquivalence :
    WriteReady (session 0 0 0 0 [0x31]) ∧ AllWrites [.write [1], .write [2]] ∧ AllWrites [.write [], .write [1, 2]] ∧
    [Instr.write [1], .write [2]].flatMap bytesOf = [Instr.write [], .write [1, 2]].flatMap bytesOf := by decide
theorem witness_WriteAfterFinalWhenAllowed :
    (Instr.write [0x32]).isWrite = true ∧ waiting.err = false ∧ waiting.valid = true ∧ waiting.done = true := by decide
theorem witness_FinalizeAnswersDigest : opened.err = false ∧ opened.valid = true := by decide
theorem witness_FinalAnswersMM3 :
    View 0 [0x31] (session 0 0 0 0 [0x31]) ∧ (session 0 0 0 0 [0x31]).err = false ∧
    (session 0 0 0 0 [0x31]).valid = true :=
  ⟨view_of_one_byte, by decide, by decide⟩
theorem witness_FinalizeRepeats :
    opened.err = false ∧ opened.valid = true ∧ opened.rsp = none ∧ (Instr.final64 = .final ∨ Instr.final64 = .final64) ∧
    (Instr.final = .final ∨ Instr.final = .final64) ∧
    nextIs (exec .final64 opened) (fun t => t.rsp == some ⟨.digest64, false, 0⟩) = true := by decide
theorem witness_HashOfAnyCutting :
    RegInv hashing ∧ hashing.err = false ∧ hashing.rsp = none ∧ AllWrites [.write [0x31]] ∧
    hashing.ports = (.init 0 :: ([.write [0x31]] ++ [.final])).map (fun i => offer (encode i)) ++ [takeSample] := by decide
theorem witness_OfferedWordIsTheOneAccepted :
    hostAllowed 2 pacing = true ∧ ({ offer 0x01 with rst := true } : PortSample).cmdValid = true ∧
    accepted 1 pacing = [] ∧ (accepted 2 pacing).head? = some 0x01 := by decide
theorem witness_RunExecutesAcceptedWordsInOrder :
    hostAllowed 4 hashing = true ∧ (∀ p ∈ hashing.ports.take 4, p.rst = false) ∧ (accepted 4 hashing).length = 3 := by decide
theorem witness_RunObservesDigest :
    IsRun 6 pacing ∧ (∀ p ∈ (pacing.ports.take 6).tail, p.rst = false) ∧ AllWrites [.write [0x31]] ∧
    (accepted 6 pacing).map decode = (.init 0 :: ([.write [0x31]] ++ [.final])).map some ∧
    nextIs (Host.Core.run Sys2Proof.core 6 pacing) (fun t => decide (Ended t)) = true := by decide
theorem witness_EndedRunStaysEnded :
    Ended (driven opened quiet) ∧ Ended (driven opened { quiet with rst := true }) ∧
    nextIs (step (driven opened quiet)) (fun t => t == opened) = true := by decide
theorem witness_InitFirstAvoidsUninit :
    State.reset.errcode ≠ 2 ∧ hostAllowed 4 hashing = true ∧ initFirst 4 hashing = true ∧
    nextIs (Host.Core.run Sys2Proof.core 4 hashing) (fun t => !t.err) = true := by decide
theorem witness_CheckPriority :
    faulted.err = true ∧
    (State.reset.err = false ∧ State.reset.valid = false ∧ Instr.final.isInit = false) ∧
    (waiting.err = false ∧ waiting.valid = true ∧ waiting.done = true ∧ (Instr.write []).isWrite = true) ∧
    (opened.err = false ∧ opened.valid = true ∧ ¬(opened.done = true ∧ Instr.reset.isWrite = true)) ∧
    (checkWith true (some .final) State.reset).code ≠ 0 ∧ (checkWith true (some (.write [])) waiting).code = 0 := by decide
theorem witness_RefusedCommandRecordsFirstFault :
    check (some .final) State.reset ≠ .proceed ∧ check (some .final64) faulted ≠ .proceed ∧
    check (some (.write [])) waiting ≠ .proceed := by decide
theorem witness_FaultIsFinalUntilReset :
    (driven faulted (offer 0x01)).err = true ∧ (driven faulted (offer 0x01)).ports = offer 0x01 :: [] ∧
    (offer 0x01).rst = false ∧ nextIs (step (driven faulted (offer 0x01))) (fun t => t == faulted) = true := by decide
theorem witness_NoDataCanFault :
    (Instr.init 1).isInit = (Instr.init 2).isInit ∧ (Instr.init 1).isWrite = (Instr.init 2).isWrite ∧
    opened.err = (session 1 2 3 16 [9]).err ∧ opened.valid = (session 1 2 3 16 [9]).valid ∧
    opened.done = (session 1 2 3 16 [9]).done := by decide
theorem witness_ResponsesOnlyFromFinalize :
    opened.rsp = none ∧ nextIs (exec .final opened) (fun t => t.rsp.isSome) = true ∧
    nextIs (exec .final64 opened) (fun t => t.rsp.isSome) = true ∧
    nextIs (exec .reset opened) (fun t => t.rsp.isNone) = true := by decide
theorem witness_OutputPortsShowSlot :
    (opened.outputs false).cmdReady = true ∧ (waiting.outputs false).rspValid = true ∧
    (waiting.outputs false).rsp = some ⟨.digest128, false, 0⟩ := by decide
theorem witness_SeedWrittenOnlyByInit :
    nextIs (step (driven opened (offer 0x0501))) (fun t => t.seed != opened.seed) = true := by decide
theorem witness_AccumulatorMovesWithCount :
    (Instr.write16 (count 0 16)).wf = true ∧ check (some (.write16 (count 0 16))) opened = .proceed ∧
    16 ≤ opened.plen.toNat + (bytesOf (.write16 (count 0 16))).length ∧
    (session 0 0 0 0 (count 0 5)).plen.toNat + (bytesOf (.write (count 0 10))).length < 16 ∧
    check (some (.init 0)) opened = .proceed ∧ check (some .reset) opened = .proceed ∧
    check (some .reset) State.reset ≠ .proceed ∧
    nextIs (exec (.write16 (count 0 16)) opened) (fun t => t.consumed == 16) = true := by decide
theorem witness_StepKeepsInvariant :
    RegInv (driven opened (offer 0x310a)) ∧ nextIs (step (driven opened (offer 0x310a))) (fun t => t.plen == 1) = true := by decide
theorem witness_StepKeepsResponseCurrent :
    RspInv (driven opened (offer 0x03)) ∧ nextIs (step (driven opened (offer 0x03))) (fun t => t.rsp.isSome) = true :=
  ⟨fun _ h => absurd h (by simp [driven, opened, State.reset]), by decide⟩
/-- A digest waits and the host does not take it. -/
theorem witness_StepKeepsResponseCurrent_digest :
    RspInv (driven answered quiet) ∧ nextIs (step (driven answered quiet)) (fun t => t == answered) = true := by
  refine ⟨?_, by decide⟩
  intro r h
  obtain rfl : (⟨.digest128, false, 0x71fbbbfe8a7b7c71942aeb9bf9f0f637⟩ : Response) = r := Option.some.inj h
  exact .inr ⟨rfl, rfl, rfl, by decide⟩
/-- The response of a refused FINAL waits and the host does not take it. -/
theorem witness_StepKeepsResponseCurrent_error :
    RspInv (driven turnedAway quiet) ∧ nextIs (step (driven turnedAway quiet)) (fun t => t == turnedAway) = true := by
  refine ⟨?_, by decide⟩
  intro r h
  obtain rfl : (⟨.digest128, true, 0⟩ : Response) = r := Option.some.inj h
  exact .inl ⟨rfl, rfl⟩
theorem witness_StepKeepsSessionView :
    SessionIs (some (0, [0x31])) (driven (session 0 0 0 0 [0x31]) (offer 0x320a)) ∧
    sessionAfterStep (driven (session 0 0 0 0 [0x31]) (offer 0x320a)) (some (0, [0x31])) = some (0, [0x31, 0x32]) ∧
    nextIs (step (driven (session 0 0 0 0 [0x31]) (offer 0x320a))) (fun t => t.pending == [0x31, 0x32]) = true := by
  refine ⟨⟨rfl, by decide, by decide, by decide, by decide, by decide⟩, by decide, by decide⟩
theorem witness_StepKeepsSessionView_init :
    SessionIs none (driven State.reset (offer 0x0701)) ∧
    sessionAfterStep (driven State.reset (offer 0x0701)) none = some (7, []) := by
  exact ⟨rfl, by decide⟩
theorem witness_StepKeepsSessionView_reset :
    sessionAfterStep (driven (session 0 0 0 0 [0x31]) (offer 0x05)) (some (0, [0x31])) = some (0, []) ∧
    sessionAfterStep (driven (session 0 0 0 0 [0x31]) { quiet with rst := true }) (some (0, [0x31])) = none ∧
    sessionAfterStep (driven { session 0 0 0 0 [0x31] with done := true } (offer 0x320a)) (some (0, [0x31])) =
      some (0, [0x31]) := by decide
/-- Two states that differ in a pending byte past `PLEN` agree on everything defined. -/
theorem witness_UndefinedValuesAreNeverRead :
    SameDefined opened { opened with pend := putBytes 3 [0xff] opened.pend } ∧
    opened ≠ { opened with pend := putBytes 3 [0xff] opened.pend } :=
  ⟨⟨rfl, rfl, rfl, rfl, rfl, rfl, fun _ => ⟨rfl, rfl, rfl, rfl, rfl, by decide⟩⟩, by decide⟩

end Sys2Proof.Tests
end

section
/-! PROOFS. INIT, RESET and the state after hardware reset (10_state.md R36 to R38). -/

namespace Sys2Proof.Machine

variable {s : State}

/-! ### When a session command executes (60_exceptions.md R182) -/

theorem check_init_proceed_iff {seed : Word} : check (some (.init seed)) s = .proceed ↔ s.err = false := by
  simp [check_proceed_iff, Instr.isInit, Instr.isWrite]

theorem check_reset_proceed_iff : check (some .reset) s = .proceed ↔ s.err = false ∧ s.valid = true := by
  simp [check_proceed_iff, Instr.isInit, Instr.isWrite]

/-! ### The state the pseudocode of INIT and of RESET leaves -/

theorem initBody_eq (seed : Word) (s : State) :
    initBody seed s = { s with
      seed := seed, h1 := seed, h2 := seed, consumed := 0, plen := 0, valid := true, done := false,
      pend := freeBuffer s.fresh, fresh := s.fresh + 1 } := rfl

theorem resetBody_eq (s : State) :
    resetBody s = { s with
      h1 := s.seed, h2 := s.seed, consumed := 0, plen := 0, done := false,
      pend := freeBuffer s.fresh, fresh := s.fresh + 1 } := rfl

/-- In a session, RESET is INIT with the stored seed (10_state.md R38). The two agree even on the undefined bytes of `PEND`,
since both take the same draw. -/
theorem resetBody_eq_initBody (hv : s.valid = true) : resetBody s = initBody s.seed s := by
  rw [resetBody_eq, initBody_eq, ← hv]

theorem SameDefined.refl (s : State) : SameDefined s s :=
  ⟨rfl, rfl, rfl, rfl, rfl, rfl, fun _ => ⟨rfl, rfl, rfl, rfl, rfl, rfl⟩⟩

end Sys2Proof.Machine

namespace Sys2Proof.Certificates.Slice0

open Sys2Proof.Machine

/-- Settles O27: INIT passes the check in every state without a fault, so its pseudocode runs. -/
theorem initConstructsSession : Obligations.InitConstructsSession := by
  intro seed s he
  have hinit : exec (.init seed) s = .next (initBody seed s) := exec_legal (check_init_proceed_iff.mpr he)
  exact ⟨freeBuffer s.fresh, s.fresh + 1, by rw [hinit, initBody_eq]⟩

/-- Settles O28: RESET passes the check in a session without a fault, and its pseudocode is then that of INIT with the
stored seed. -/
theorem resetRestartsSession : Obligations.ResetRestartsSession := by
  intro s he hv
  have hreset : exec .reset s = .next (resetBody s) := exec_legal (check_reset_proceed_iff.mpr ⟨he, hv⟩)
  have hinit : exec (.init s.seed) s = .next (initBody s.seed s) := exec_legal (check_init_proceed_iff.mpr he)
  constructor
  · exact ⟨freeBuffer s.fresh, s.fresh + 1, by rw [hreset, resetBody_eq]⟩
  · refine ⟨resetBody s, initBody s.seed s, hreset, hinit, ?_⟩
    rw [resetBody_eq_initBody hv]
    exact SameDefined.refl _

/-- Settles O53: each register named is a field of `State.reset`, and `STATUS` is formed from four of them. -/
theorem resetState : Obligations.ResetState := ⟨rfl, rfl, rfl, rfl, rfl, rfl⟩

end Sys2Proof.Certificates.Slice0
end

section
/-! PROOFS. Words read from a byte space (20_memory.md R52). -/

namespace Sys2Proof.Machine

/-! ### Byte lanes of a word -/

/-- A placed byte fills its own lane, and every other lane is zero. -/
theorem extractLsb'_bytepos (b : Byte) {j k : Nat} (hj : j < 8) :
    (bytepos b k).extractLsb' (8 * j) 8 = if j = k then b else 0 := by
  apply BitVec.eq_of_getLsbD_eq
  intro i hi
  rw [bytepos, BitVec.getLsbD_extractLsb', BitVec.getLsbD_shiftLeft, BitVec.getLsbD_setWidth]
  rcases Nat.lt_trichotomy j k with hlt | rfl | hgt
  · have below : 8 * j + i < 8 * k := by omega
    simp [below, hlt.ne]
  · simp [hi, show 8 * j + i < 64 by omega, show i < 64 by omega]
  · have past : b.getLsbD (8 * j + i - 8 * k) = false := BitVec.getLsbD_of_ge _ _ (by omega)
    simp [past, hgt.ne']

/-- `MemRead` places the eight bytes at offsets `a` to `a + 7` in ascending lanes. -/
theorem memRead_eq_or_bytepos (space : List Byte) (a : Nat) :
    memRead space a =
      bytepos (byteAt space a) 0 ||| bytepos (byteAt space (a + 1)) 1 ||| bytepos (byteAt space (a + 2)) 2
        ||| bytepos (byteAt space (a + 3)) 3 ||| bytepos (byteAt space (a + 4)) 4 ||| bytepos (byteAt space (a + 5)) 5
        ||| bytepos (byteAt space (a + 6)) 6 ||| bytepos (byteAt space (a + 7)) 7 := by
  simp [memRead, bytepos]

end Sys2Proof.Machine

namespace Sys2Proof.Certificates.Slice0

open Sys2Proof.Machine

/-- Settles O18: the word is the union of its eight placed bytes, and lane `j` sees only the one placed there. -/
theorem memReadIsLittleEndian : Obligations.MemReadIsLittleEndian := by
  intro space a j hj
  rw [memRead_eq_or_bytepos]
  simp only [BitVec.extractLsb'_or, extractLsb'_bytepos _ hj]
  interval_cases j <;> simp

end Sys2Proof.Certificates.Slice0
end

section
/-! PROOFS. The opcode map: which words match a row, what `decode` answers for each opcode, and what the ignored data bits
and the illegal words do (30_encoding.md R72 to R79). -/

namespace Sys2Proof

variable {cw : CmdWord}

/-! ### Masks (30_encoding.md R74) -/

/-- A mask acts on each field by itself. -/
theorem cwPack_and (data data' : BitVec 128) (len len' : BitVec 5) (op op' : BitVec 3) :
    cwPack data len op &&& cwPack data' len' op' = cwPack (data &&& data') (len &&& len') (op &&& op') := by
  rw [cwPack, cwPack, cwPack, ← BitVec.and_append, ← BitVec.and_append]

theorem cwPack_inj {data data' : BitVec 128} {len len' : BitVec 5} {op op' : BitVec 3} :
    cwPack data len op = cwPack data' len' op' ↔ data = data' ∧ len = len' ∧ op = op' := by
  constructor
  · intro h
    exact ⟨by simpa using congrArg cwData h, by simpa using congrArg cwLen h, by simpa using congrArg cwOp h⟩
  · rintro ⟨rfl, rfl, rfl⟩
    rfl

/-- Every mask of the opcode map ignores `data` and keeps `op` whole; the rows differ in what they keep of `len`. -/
theorem and_rowMask_eq_iff (cw : CmdWord) (mask len : BitVec 5) (op : BitVec 3) :
    cw &&& cwPack 0 mask (BitVec.allOnes 3) = cwPack 0 len op ↔ cwOp cw = op ∧ cwLen cw &&& mask = len := by
  conv_lhs => rw [← cwPack_fields cw, cwPack_and, cwPack_inj, BitVec.and_allOnes]
  simp [and_comm]

/-- A row with the mask `0xFF` fixes `len` and `op`. -/
theorem and_0xFF_eq_iff (cw : CmdWord) (len : BitVec 5) (op : BitVec 3) :
    cw &&& 0xFF = cwPack 0 len op ↔ cwOp cw = op ∧ cwLen cw = len := by
  have hmask : (0xFF : CmdWord) = cwPack 0 (BitVec.allOnes 5) (BitVec.allOnes 3) := rfl
  rw [hmask, and_rowMask_eq_iff, BitVec.and_allOnes]

/-- The highest bit of `len` is 0 exactly when `len` is at most 15. -/
theorem and_0x10_eq_zero_iff : ∀ len : BitVec 5, len &&& 0x10 = 0 ↔ len.toNat ≤ 15 := by decide

/-- The row of WRITE "len 0 to 15": its mask `0x87` keeps of `len` the highest bit alone. -/
theorem matches_write (cw : CmdWord) : cw &&& 0x87 = 0x02 ↔ cwOp cw = 2 ∧ (cwLen cw).toNat ≤ 15 := by
  rw [← and_0x10_eq_zero_iff]
  exact and_rowMask_eq_iff cw 0x10 0 2

theorem matches_write16 (cw : CmdWord) : cw &&& 0xFF = 0x82 ↔ cwOp cw = 2 ∧ (cwLen cw).toNat = 16 := by
  rw [show (cwLen cw).toNat = 16 ↔ cwLen cw = 16 from BitVec.toNat_inj (y := 16)]
  exact and_0xFF_eq_iff cw 16 2

theorem matches_init (cw : CmdWord) : cw &&& 0xFF = 0x01 ↔ cwOp cw = 1 ∧ cwLen cw = 0 := and_0xFF_eq_iff cw 0 1
theorem matches_final (cw : CmdWord) : cw &&& 0xFF = 0x03 ↔ cwOp cw = 3 ∧ cwLen cw = 0 := and_0xFF_eq_iff cw 0 3
theorem matches_final64 (cw : CmdWord) : cw &&& 0xFF = 0x04 ↔ cwOp cw = 4 ∧ cwLen cw = 0 := and_0xFF_eq_iff cw 0 4
theorem matches_reset (cw : CmdWord) : cw &&& 0xFF = 0x05 ↔ cwOp cw = 5 ∧ cwLen cw = 0 := and_0xFF_eq_iff cw 0 5

/-! ### What `decode` answers for each opcode (30_encoding.md R75) -/

theorem decode_of_op_one (h : cwOp cw = 1) :
    decode cw = if cwLen cw = 0 then some (.init (seedOf (cwData cw))) else none := by
  simp [decode, decodeWith, h]

theorem decode_of_op_two (h : cwOp cw = 2) :
    decode cw =
      if (cwLen cw).toNat ≤ 15 then some (.write (beatOf (cwData cw) (cwLen cw).toNat))
      else if (cwLen cw).toNat = 16 then some (.write16 (beatOf (cwData cw) 16))
      else none := by
  simp [decode, decodeWith, h]

theorem decode_of_op_three (h : cwOp cw = 3) : decode cw = if cwLen cw = 0 then some .final else none := by
  simp [decode, decodeWith, h]

theorem decode_of_op_four (h : cwOp cw = 4) : decode cw = if cwLen cw = 0 then some .final64 else none := by
  simp [decode, decodeWith, Config.hasFinal64, h]

theorem decode_of_op_five (h : cwOp cw = 5) : decode cw = if cwLen cw = 0 then some .reset else none := by
  simp [decode, decodeWith, h]

theorem decode_of_op_reserved (h : cwOp cw = 0 ∨ cwOp cw = 6 ∨ cwOp cw = 7) : decode cw = none := by
  rcases h with h | h | h <;> simp [decode, decodeWith, h]

/-- An opcode is one of the five with a command, or reserved. -/
theorem op_cases : ∀ op : BitVec 3, op = 1 ∨ op = 2 ∨ op = 3 ∨ op = 4 ∨ op = 5 ∨ (op = 0 ∨ op = 6 ∨ op = 7) := by
  decide

/-! ### Words with one control byte (30_encoding.md R79) -/

/-- The control byte fixes `op` and `len`. -/
theorem op_len_eq_of_cwCtl_eq {v w : CmdWord} (h : cwCtl v = cwCtl w) : cwOp v = cwOp w ∧ cwLen v = cwLen w := by
  rw [← cwPack_fields v, ← cwPack_fields w, cwCtl_cwPack, cwCtl_cwPack] at h
  constructor
  · simpa only [BitVec.extractLsb'_append_eq_right] using congrArg (BitVec.extractLsb' 0 3) h
  · simpa only [BitVec.extractLsb'_append_eq_left] using congrArg (BitVec.extractLsb' 3 5) h

theorem beatOf_congr {d e : BitVec 128} {n : Nat} (h : ∀ j, j < n → laneByte d j = laneByte e j) :
    beatOf d n = beatOf e n :=
  List.map_congr_left fun j hj => h j (List.mem_range.mp hj)

end Sys2Proof

namespace Sys2Proof.Machine

/-! ### An illegal word (30_encoding.md R78) -/

@[simp] theorem offer_word (cw : CmdWord) : (offer cw).word = cw := cwPack_fields cw

/-- `Fault(1)` if it is the first fault; nothing else changes, and no response is produced. -/
theorem runIllegal_eq (s : State) :
    runIllegal s = { s with err := true, errcode := if s.err then s.errcode else 1 } := by
  rw [runIllegal, refuse_quiet (by simp) (by simp)]
  cases he : s.err with
  | true => rw [raiseFault_of_err he, if_pos rfl, ← he]
  | false => rw [raiseFault_first he, check, checkWith_none he]; rfl

/-- What an offered word that decodes to no command does when it is accepted. -/
theorem step_offer_illegal {cw : CmdWord} {s : State} (hd : decode cw = none) (hr : s.rsp = none)
    (rest : List PortSample) : step (s.setPorts (offer cw :: rest)) = .next (runIllegal (s.setPorts rest)) := by
  have haccept : edgeOf (offer cw) (s.setPorts (offer cw :: rest)) = .accept cw :=
    (edgeOf_accept rfl rfl hr).trans (congrArg Edge.accept (offer_word cw))
  rw [step_cons rfl, haccept]
  simp only [hd]
  rfl

/-! ### The status port (30_encoding.md R77) -/

@[simp] theorem State.outputs_status (s : State) (rst : Bool) : (s.outputs rst).status = s.status := rfl

/-! ### Responses (30_encoding.md R76) -/

/-- The digest of FINAL64's response stands in the low half, under a word of zeros. -/
theorem rspData64_eq (d : Word × Word) : rspData64 d = (0 : Word) ++ d.1 := by
  rw [rspData64]
  exact BitVec.setWidth_eq_append (by decide)

/-- A command that is neither FINAL nor FINAL64 leaves `RSP` as it is, executed or refused. -/
theorem exec_rsp_of_not_finalize {i : Instr} {s t : State} (h : exec i s = .next t) (hf : i ≠ .final)
    (hf64 : i ≠ .final64) : t.rsp = s.rsp := by
  rcases exec_cases h with ⟨-, rfl⟩ | ⟨-, rfl⟩
  · cases i with
    | init seed => simp [bodyOf, initBody]
    | write beat => simp [bodyOf]
    | write16 beat => simp [bodyOf]
    | final => exact absurd rfl hf
    | final64 => exact absurd rfl hf64
    | reset => simp [bodyOf, resetBody]
  · rw [refuse_quiet (by simpa using hf) (by simpa using hf64), State.raiseFault_rsp]

/-- FINAL answers the digest when it executes and an error when it is refused. -/
theorem exec_final_rsp {s t : State} (h : exec .final s = .next t) :
    t.rsp = some (if check (some .final) s = .proceed then ⟨.digest128, false, rspData128 s.digest⟩
      else ⟨.digest128, true, Config.freeRspData s.fresh⟩) := by
  rcases exec_cases h with ⟨hc, rfl⟩ | ⟨hc, rfl⟩
  · rw [if_pos hc]; rfl
  · rw [if_neg hc, State.refuse_rsp_final]

/-- FINAL64 answers the first half of the digest when it executes and an error when it is refused. -/
theorem exec_final64_rsp {s t : State} (h : exec .final64 s = .next t) :
    t.rsp = some (if check (some .final64) s = .proceed then ⟨.digest64, false, rspData64 s.digest⟩
      else ⟨.digest64, true, Config.freeRspData s.fresh⟩) := by
  rcases exec_cases h with ⟨hc, rfl⟩ | ⟨hc, rfl⟩
  · rw [if_pos hc]; rfl
  · rw [if_neg hc, State.refuse_rsp_final64]

end Sys2Proof.Machine

namespace Sys2Proof.Certificates.Slice0

open Sys2Proof.Machine

/-- Settles O10: a row's match and mask fix `op` and `len`, and for each opcode the decoder tests just these. -/
theorem opcodeRowsMatch : Obligations.OpcodeRowsMatch := by
  intro cw
  simp only [ne_eq, matches_init, matches_write, matches_write16, matches_final, matches_final64, matches_reset]
  rcases op_cases (cwOp cw) with h | h | h | h | h | h
  · by_cases hlen : cwLen cw = 0 <;> simp [decode_of_op_one h, h, hlen]
  · rw [decode_of_op_two h]
    split_ifs with h15 h16
    · simp [h, h15, show (cwLen cw).toNat ≠ 16 by omega]
    · simp [h, h16]
    · simp [h, h15, h16]
  · by_cases hlen : cwLen cw = 0 <;> simp [decode_of_op_three h, h, hlen]
  · by_cases hlen : cwLen cw = 0 <;> simp [decode_of_op_four h, h, hlen]
  · by_cases hlen : cwLen cw = 0 <;> simp [decode_of_op_five h, h, hlen]
  · rw [decode_of_op_reserved h]
    rcases h with h | h | h <;> simp [h]

/-- Settles O11: for each opcode the decoder answers `none` for the lengths R78 names, and an accepted word of that kind is
refused with code 1. -/
theorem illegalWordsExactly : Obligations.IllegalWordsExactly := by
  constructor
  · intro cw
    rcases op_cases (cwOp cw) with h | h | h | h | h | h
    · simp [decode_of_op_one h, h]
    · rw [decode_of_op_two h]
      split_ifs with h15 h16
      · simp [h, show ¬ 17 ≤ (cwLen cw).toNat by omega]
      · simp [h, h16]
      · simp [h, show 17 ≤ (cwLen cw).toNat by omega]
    · simp [decode_of_op_three h, h]
    · simp [decode_of_op_four h, h]
    · simp [decode_of_op_five h, h]
    · exact iff_of_true (decode_of_op_reserved h) (.inl h)
  · intro cw s hd hr
    rw [step_offer_illegal hd hr, runIllegal_eq]
    rfl

/-- Settles O12: the decoder reads `op`, `len`, the seed of an INIT and the lanes below `len` of a WRITE, and nothing else
of the word. -/
theorem ignoredBitsHaveNoEffect : Obligations.IgnoredBitsHaveNoEffect := by
  intro v w hctl hseed hlanes
  obtain ⟨hop, hlen⟩ := op_len_eq_of_cwCtl_eq hctl
  rcases op_cases (cwOp v) with h | h | h | h | h | h
  · rw [decode_of_op_one h, decode_of_op_one (hop ▸ h), hlen, hseed h]
  · have hbeat := beatOf_congr (hlanes h)
    rw [decode_of_op_two h, decode_of_op_two (hop ▸ h), ← hlen, hbeat]
    split_ifs with h15 h16
    · rfl
    · rw [← h16, hbeat]
    · rfl
  · rw [decode_of_op_three h, decode_of_op_three (hop ▸ h), hlen]
  · rw [decode_of_op_four h, decode_of_op_four (hop ▸ h), hlen]
  · rw [decode_of_op_five h, decode_of_op_five (hop ▸ h), hlen]
  · rw [decode_of_op_reserved h, decode_of_op_reserved (hop ▸ h)]

/-- Settles O48: FINAL and FINAL64 answer whether they execute or not, and no other command touches `RSP`. -/
theorem responsesOnlyFromFinalize : Obligations.ResponsesOnlyFromFinalize := by
  intro i s t hr h
  refine ⟨?_, ?_, fun hf hf64 => (exec_rsp_of_not_finalize h hf hf64).trans hr⟩
  · rintro rfl
    refine ⟨_, exec_final_rsp h, ?_⟩
    split_ifs with hc <;> simp [hc, rspData128]
  · rintro rfl
    refine ⟨_, exec_final64_rsp h, ?_⟩
    split_ifs with hc <;> simp [hc, rspData64_eq]

/-- Settles O49: the status port is `STATUS` at either level of `rst`, and `STATUS` is the four fields side by side. -/
theorem statusBits : Obligations.StatusBits := by
  intro s rst
  rw [State.outputs_status, State.status]
  refine ⟨?_, ?_, ?_, ?_⟩
  · rw [BitVec.getLsbD_append]; simp
  · rw [BitVec.getLsbD_append, BitVec.getLsbD_append]; simp
  · rw [BitVec.getLsbD_append, BitVec.getLsbD_append, BitVec.getLsbD_append]; simp
  · rw [BitVec.extractLsb'_append_eq_of_le (by decide), BitVec.extractLsb'_append_eq_of_le (by decide),
      BitVec.extractLsb'_append_eq_left]

end Sys2Proof.Certificates.Slice0
end

section
/-! PROOFS. Sum and product as natural numbers (40_arith_primitives.md R101, R102). The model writes the second operand
first, so each needs commutativity once; later proofs about values go through these two lemmas. -/

namespace Sys2Proof.Machine

@[simp] theorem toNat_add64 (a b : Word) : (add64 a b).toNat = (a.toNat + b.toNat) % 2 ^ 64 := by
  rw [add64, BitVec.toNat_add, Nat.add_comm b.toNat]

@[simp] theorem toNat_mul64 (a b : Word) : (mul64 a b).toNat = (a.toNat * b.toNat) % 2 ^ 64 := by
  rw [mul64, BitVec.toNat_mul, Nat.mul_comm b.toNat]

end Sys2Proof.Machine

namespace Sys2Proof.Certificates.Slice0

open Sys2Proof.Machine

/-- Settles O15: `add64` and `mul64` are the sum and the product of `BitVec 64`, with the operands exchanged. -/
theorem addMulWrap : Obligations.AddMulWrap := fun a b => ⟨toNat_add64 a b, toNat_mul64 a b⟩

end Sys2Proof.Certificates.Slice0
end

section
/-! PROOFS. The accumulator and `CONSUMED` move together, once per block mixed (41_streaming_control.md R129,
42_block_mixer.md R146). What a WRITE does is read off `writeBody_absorbed`; the other commands have no block to mix. -/

namespace Sys2Proof.Machine

variable {i : Instr} {s t : State} {all : List Byte}

/-! ### At most one block of a beat -/

/-- Bytes that make up no block leave the accumulator and the count alone. -/
theorem Absorbed.of_length_lt (h : Absorbed all s t) (hl : all.length < 16) :
    t.h1 = s.h1 ∧ t.h2 = s.h2 ∧ t.consumed = s.consumed := by
  have hq : all.length / 16 = 0 := Nat.div_eq_of_lt hl
  have hacc := h.acc_eq
  rw [hq, foldBlocks_zero, Prod.mk.injEq] at hacc
  refine ⟨hacc.1, hacc.2, ?_⟩
  rw [h.consumed_eq, hq]
  exact BitVec.add_zero _

/-- Bytes that make up one block have it mixed, and the count grows by its length. -/
theorem Absorbed.of_one_block (h : Absorbed all s t) (hq : all.length / 16 = 1) :
    (t.h1, t.h2) = blockMix s.h1 s.h2 (all.take 16) ∧ t.consumed = s.consumed + 16 := by
  constructor
  · rw [h.acc_eq, hq, foldBlocks_succ, foldBlocks_zero]
  · rw [h.consumed_eq, hq]
    rfl

/-! ### What a WRITE absorbs -/

theorem bytesOf_length_le (hwf : i.wf = true) : (bytesOf i).length ≤ 16 := by
  cases i with
  | write beat => exact (of_decide_eq_true hwf).trans (by decide)
  | write16 beat => exact (of_decide_eq_true hwf).le
  | init _ | final | final64 | reset => exact Nat.zero_le _

/-- A WRITE that executes absorbs the pending bytes followed by its beat. -/
theorem bodyOf_absorbed (hw : i.isWrite = true) : Absorbed (s.pending ++ bytesOf i) s (bodyOf i s) := by
  cases i with
  | write beat => exact writeBody_absorbed beat s
  | write16 beat => exact writeBody_absorbed beat s
  | init _ | final | final64 | reset => exact nomatch hw

theorem pending_append_length (s : State) (bytes : List Byte) :
    (s.pending ++ bytes).length = s.plen.toNat + bytes.length := by
  rw [List.length_append, pending_length]

/-- The block a WRITE completes is the pending bytes and the first bytes of the beat (41_streaming_control.md R124). -/
theorem take_pending_append (s : State) (bytes : List Byte) :
    (s.pending ++ bytes).take 16 = s.pending ++ bytes.take (16 - s.plen.toNat) := by
  have hp : s.pending.length < 16 := pending_length s ▸ s.plen.isLt
  rw [List.take_append, List.take_of_length_le hp.le, pending_length]

end Sys2Proof.Machine

namespace Sys2Proof.Certificates.Slice0

open Sys2Proof.Machine

/-- Settles O52: a refusal, FINAL and FINAL64 write none of the three registers, INIT and RESET write all of them, and a
WRITE absorbs at most 15 pending bytes and 16 of the beat: no block or one. -/
theorem accumulatorMovesWithCount : Obligations.AccumulatorMovesWithCount := by
  intro i s t hwf h
  rcases exec_cases h with ⟨hc, rfl⟩ | ⟨hc, rfl⟩
  case inr =>
    exact ⟨fun _ => ⟨State.refuse_h1 .., State.refuse_h2 .., State.refuse_consumed ..⟩,
      fun hp => absurd hp hc, fun hp => absurd hp hc⟩
  refine ⟨?_, fun _ => ?_, fun _ hw hl => ?_⟩
  · rintro (hr | rfl | rfl | ⟨hw, hl⟩)
    · exact absurd hc hr
    · exact ⟨rfl, rfl, rfl⟩
    · exact ⟨rfl, rfl, rfl⟩
    · exact (bodyOf_absorbed hw).of_length_lt (by rwa [pending_append_length])
  · rintro (hi | rfl)
    · cases i with
      | init seed => exact ⟨rfl, rfl, rfl⟩
      | write _ | write16 _ | final | final64 | reset => exact nomatch hi
    · exact ⟨rfl, rfl, rfl⟩
  · have hbeat := bytesOf_length_le hwf
    have hplen := s.plen.isLt
    rw [← take_pending_append]
    exact (bodyOf_absorbed hw).of_one_block (by rw [pending_append_length]; omega)

end Sys2Proof.Certificates.Slice0
end

section
/-! PROOFS. The two halves of BLOCKMIX, each as one equation (42_block_mixer.md R143, R144). -/

namespace Sys2Proof.Machine

/-- The `h1` path of BLOCKMIX (R143): it reads the old `h2` and the first word of the block. -/
theorem blockMix_fst (h1 h2 : Word) (blk : List Byte) :
    (blockMix h1 h2 blk).1 =
      mul5add (add64 (rotl64 (xor64 h1 (mixK1 (memRead blk 0))) 27) h2) Config.n1 := rfl

/-- The `h2` path of BLOCKMIX (R143, R144): it reads the `h1` just produced and the second word of the block. -/
theorem blockMix_snd (h1 h2 : Word) (blk : List Byte) :
    (blockMix h1 h2 blk).2 =
      mul5add (add64 (rotl64 (xor64 h2 (mixK2 (memRead blk 8))) 31) (blockMix h1 h2 blk).1) Config.n2 := rfl

end Sys2Proof.Machine

namespace Sys2Proof.Certificates.Slice0

open Sys2Proof.Machine

/-- Settles O22: each path ends in `mul5add`, which is the product by 5 and then the sum with the path's own constant. -/
theorem blockMixPaths : Obligations.BlockMixPaths := by
  intro h1 h2 blk
  constructor
  · rw [blockMix_fst, mul5add, Config.n1]
  · rw [blockMix_snd, mul5add, Config.n2]

end Sys2Proof.Certificates.Slice0
end

section
/-! PROOFS. The tail finalizer: the final mix, the digest as a function of the registers, and what FINAL and FINAL64 write
(43_tail_finalizer.md R150 to R160). -/

namespace Sys2Proof.Machine

variable {s : State}

/-! ### The final mix (43_tail_finalizer.md R156) -/

/-- The model writes the second operand first. -/
theorem add64_eq (a b : Word) : add64 a b = a + b := BitVec.add_comm b a

/-- The second sum of a pair takes the new `t1`, so it counts `b` twice. -/
theorem addPair_eq (a b : Word) : addPair a b = (a + b, a + 2 * b) := by
  have hsnd : add64 b (add64 a b) = a + 2 * b := by rw [add64_eq, add64_eq]; ring
  rw [addPair, hsnd, add64_eq]

theorem finMix_eq (a b : Word) :
    finMix a b = (fmix64 (a + b) + fmix64 (a + 2 * b), fmix64 (a + b) + 2 * fmix64 (a + 2 * b)) := by
  rw [finMix, addPair_eq, addPair_eq]

/-! ### The digest of the registers (43_tail_finalizer.md R150, R155; 10_state.md R40) -/

theorem State.totalLength_eq (s : State) : s.totalLength = s.consumed + s.plen.setWidth 64 := add64_eq _ _

theorem finalizeWords_eq (h1 h2 : Word) (tail : List Byte) (plen : Nat) (len : Word) :
    finalizeWords h1 h2 tail plen len =
      finMix ((tailFold h1 h2 tail plen).1 ^^^ len) ((tailFold h1 h2 tail plen).2 ^^^ len) := rfl

/-! ### When FINAL and FINAL64 execute (60_exceptions.md R182) -/

theorem check_final_proceed_iff : check (some .final) s = .proceed ↔ s.err = false ∧ s.valid = true := by
  simp [check_proceed_iff, Instr.isInit, Instr.isWrite]

theorem check_final64_proceed_iff : check (some .final64) s = .proceed ↔ s.err = false ∧ s.valid = true := by
  simp [check_proceed_iff, Instr.isInit, Instr.isWrite]

/-! ### The state the pseudocode of FINAL and of FINAL64 leaves (43_tail_finalizer.md R158 to R160) -/

/-- The digest is that of the registers on entry (R157): no register but `DONE` and `RSP` is written. -/
theorem finalBody_eq (s : State) :
    finalBody s = { s with done := true, rsp := some ⟨.digest128, false, s.digest.1 ++ s.digest.2⟩ } := rfl

theorem final64Body_eq (s : State) :
    final64Body s = { s with done := true, rsp := some ⟨.digest64, false, (0 : Word) ++ s.digest.1⟩ } := by
  rw [← rspData64_eq]
  rfl

end Sys2Proof.Machine

namespace Sys2Proof.Certificates.Slice0

open Sys2Proof.Machine

/-- Settles O35: in a session without a fault both commands pass the check, so their pseudocode runs, and that writes
`DONE` and `RSP` alone. -/
theorem finalizeAnswersDigest : Obligations.FinalizeAnswersDigest := by
  intro s he hv
  have hfinal : exec .final s = .next (finalBody s) := exec_legal (check_final_proceed_iff.mpr ⟨he, hv⟩)
  have hfinal64 : exec .final64 s = .next (final64Body s) := exec_legal (check_final64_proceed_iff.mpr ⟨he, hv⟩)
  refine ⟨?_, ?_, ?_⟩
  · rw [hfinal, finalBody_eq]
  · rw [hfinal64, final64Body_eq]
  · rw [State.digest, finalizeWords_eq, State.totalLength_eq]

/-- Settles O24: FINMIX is two pairs of additions with FMIX64 on each half between them. -/
theorem finalMixStages : Obligations.FinalMixStages := ⟨addPair_eq, finMix_eq⟩

end Sys2Proof.Certificates.Slice0
end

section
/-! PROOFS. The check before a command, a refused command and a faulted block (60_exceptions.md R180 to R185). -/

namespace Sys2Proof.Machine

variable {s t : State} {i j : Instr} {c : Option Instr} {allow : Bool} {v : Verdict}

/-! ### The check (60_exceptions.md R180, R182) -/

/-- In a block without a fault the check reads `VALID`, `DONE` and the kind of the command, in a faulted one nothing. -/
theorem checkWith_congr (hinit : i.isInit = j.isInit) (hwrite : i.isWrite = j.isWrite) (herr : s.err = t.err)
    (hvalid : s.valid = t.valid) (hdone : s.done = t.done) :
    checkWith allow (some i) s = checkWith allow (some j) t := by
  cases he : s.err with
  | true => rw [checkWith_of_err he, checkWith_of_err (herr ▸ he)]
  | false => rw [checkWith_some he, checkWith_some (herr ▸ he), hinit, hwrite, hvalid, hdone]

theorem check_ne_proceed_of_err (h : s.err = true) : check c s ≠ .proceed := by
  simp [check, checkWith_of_err h]

/-! ### A faulted block (60_exceptions.md R183, R184) -/

/-- The fault is already recorded, so a refusal is the answer alone. -/
theorem refuse_of_err (h : s.err = true) : s.refuse c v = s.answerRefused c := by
  rw [State.refuse, raiseFault_of_err h]

/-- A response that answers a refused word has `rsp_err = 1` (60_exceptions.md R185). -/
theorem answerRefused_rsp {r : Response} (h : (s.answerRefused c).rsp = some r) : s.rsp = some r ∨ r.err = true := by
  rcases c with _ | i
  · exact .inl h
  · cases i with
    | final | final64 => exact .inr (by injection h with h; rw [← h])
    | init _ | write _ | write16 _ | reset => exact .inl h

/-- All that a step without `rst` can do in a faulted block: nothing but the sample consumed, the response taken, or an
accepted word answered as a refused one. -/
theorem step_cases_of_err {p : PortSample} {rest : List PortSample} (he : s.err = true) (hp : s.ports = p :: rest)
    (hrst : p.rst = false) (h : step s = .next t) :
    t = s.setPorts rest ∨ t = (s.setPorts rest).takeRsp ∨ ∃ c, t = (s.setPorts rest).answerRefused c := by
  have he' : (s.setPorts rest).err = true := he
  rcases step_cases h with ⟨hnil, -⟩ | ⟨p', rest', hp', hedge⟩
  · cases hnil.symm.trans hp
  · obtain ⟨rfl, rfl⟩ := List.cons.inj (hp.symm.trans hp')
    rcases hedge with ⟨-, ht⟩ | ⟨hr, -⟩ | ⟨-, -, ht⟩ | ⟨-, -, ⟨i, -, hexec⟩ | ⟨-, ht⟩⟩
    · exact .inl ht
    · cases hrst.symm.trans hr
    · exact .inr (.inl ht)
    · rw [exec_refused (check_ne_proceed_of_err he'), refuse_of_err he'] at hexec
      exact .inr (.inr ⟨some i, by injection hexec with ht; exact ht.symm⟩)
    · exact .inr (.inr ⟨none, by rw [ht, runIllegal, refuse_of_err he']⟩)

end Sys2Proof.Machine

namespace Sys2Proof.Certificates.Slice0

open Sys2Proof.Machine

/-- Settles O44: the first four clauses are the branches of the check; a verdict with a code other than 0 is not
`proceed`, and `ERRCODE` is written by the first fault alone. -/
theorem checkPriority : Obligations.CheckPriority := by
  refine ⟨?_, ?_, ?_, ?_, ?_, ?_⟩
  · intro allow c s he
    rw [checkWith_of_err he, Verdict.code]
  · intro allow s he
    rw [checkWith_none he, Verdict.code]
  · intro allow i s he hv hi
    rw [checkWith_some he, if_pos ⟨hv, hi⟩, Verdict.code]
  · intro allow i s he hsession
    rw [checkWith_some he, if_neg (by rcases hsession with h | h <;> simp [h])]
    split_ifs <;> rfl
  · intro allow i body s hcode
    exact runCommandWith_refused fun hproceed => hcode (by rw [hproceed, Verdict.code])
  · intro c s he
    rw [State.refuse_errcode, if_pos he]

/-- Settles O45: a refused command leaves `State.refuse` behind, which writes the two fault registers and, for FINAL and
FINAL64, `RSP`. -/
theorem refusedCommandRecordsFirstFault : Obligations.RefusedCommandRecordsFirstFault := by
  intro i s hc
  refine ⟨_, exec_refused hc, by simp [SameRegisters], State.refuse_valid .., State.refuse_done .., State.refuse_err ..,
    State.refuse_errcode .., ?_, ?_, exec_rsp_of_not_finalize (exec_refused hc)⟩
  · rintro rfl
    exact ⟨_, State.refuse_rsp_final ..⟩
  · rintro rfl
    exact ⟨_, State.refuse_rsp_final64 ..⟩

/-- Settles O46: each of the three things a step without `rst` can do in a faulted block writes the samples, `RSP` and the
counter of free values alone, and only an answer to a refused word puts a response into `RSP`. -/
theorem faultIsFinalUntilReset : Obligations.FaultIsFinalUntilReset := by
  intro s t p rest he hp hrst h
  refine ⟨fun c => checkWith_of_err he, ?_⟩
  rcases step_cases_of_err he hp hrst h with rfl | rfl | ⟨c, rfl⟩
  · simp +contextual [he]
  · simp [he]
  · simpa [he] using fun r => answerRefused_rsp (s := s.setPorts rest) (c := c) (r := r)

/-- Settles O47: the check reads three flags and the kind of the command. -/
theorem noDataCanFault : Obligations.NoDataCanFault := by
  intro i j s t hinit hwrite herr hvalid hdone
  exact checkWith_congr hinit hwrite herr hvalid hdone

end Sys2Proof.Certificates.Slice0
end

section
/-! PROOFS. A hardware reset has priority over everything, and nothing else clears `ERR` (70_reset_and_hazards.md R200,
R201). -/

namespace Sys2Proof.Machine

variable {s : State} {p : PortSample} {rest : List PortSample}

/-- At an edge with `rst = 1` neither port transfers anything (R201). -/
theorem edgeOf_of_rst (hr : p.rst = true) : edgeOf p s = .reset := by simp [edgeOf, hr]

/-- Of a sample with `rst = 1` the step reads nothing else. -/
theorem step_of_rst (hp : s.ports = p :: rest) (hr : p.rst = true) :
    step s = .next (s.setPorts rest).hardReset := by
  rw [step_cons hp, edgeOf_of_rst hr]

end Sys2Proof.Machine

namespace Sys2Proof.Certificates.Slice0

open Sys2Proof.Machine

/-- A step that clears `ERR` is a hardware reset (R200): with no sample left the state stays, and without `rst` the fault
is final. -/
theorem rst_of_step_clears_err {s t : State} (he : s.err = true) (h : step s = .next t) (he' : t.err = false) :
    ∃ p rest, s.ports = p :: rest ∧ p.rst = true := by
  rcases step_cases h with ⟨-, rfl⟩ | ⟨p, rest, hp, -⟩
  · cases he.symm.trans he'
  · refine ⟨p, rest, hp, ?_⟩
    by_contra hr
    obtain ⟨-, hkept, -⟩ := faultIsFinalUntilReset s t p rest he hp (Bool.eq_false_iff.mpr hr) h
    cases hkept.symm.trans he'

/-- Settles O4: a sample with `rst = 1` leads to `State.hardReset` of the same state whatever else it holds, and every
other step of a faulted block keeps the fault. -/
theorem hardwareResetHasPriority : Obligations.HardwareResetHasPriority := by
  refine ⟨fun s p rest hp hr => ⟨?_, fun q hq => ?_, fun cw => ?_, ?_, ?_⟩, fun _ _ => rst_of_step_clears_err⟩
  · exact ⟨_, step_of_rst hp hr, rfl, rfl, rfl, rfl, rfl, rfl, fun _ => check_init_proceed_iff.mpr rfl⟩
  · exact ⟨_, _, step_of_rst hp hr, step_of_rst (State.setPorts_ports ..) hq, SameDefined.refl _⟩
  · simp [edgeOf_of_rst hr]
  · simp [State.outputs, State.cmdReady, hr]
  · simp [State.outputs, State.rspValid, hr]

end Sys2Proof.Certificates.Slice0
end

section
/-! PROOFS. Encoding and decoding are inverse on the control byte and on the operands (30_encoding.md R72 to R75), the worked
words (R84), and the pseudo-command WRITES (R82). -/

namespace Sys2Proof

variable {cw : CmdWord} {i : Instr}

/-! ### Operands read back (30_encoding.md R73) -/

theorem seedOf_setWidth (seed : Word) : seedOf (seed.setWidth 128) = seed := by
  rw [seedOf, BitVec.extractLsb'_setWidth_of_le (by decide), BitVec.extractLsb'_eq_self]

/-- The length field of a command word holds any length a beat can have. -/
theorem toNat_len_of_le {n : Nat} (h : n ≤ 16) : (BitVec.ofNat 5 n).toNat = n := by
  rw [BitVec.toNat_ofNat]
  omega

/-! ### Encoding after decoding -/

theorem cwCtl_eq (cw : CmdWord) : cwCtl cw = (cwLen cw ++ cwOp cw : BitVec (5 + 3)) := by
  conv_lhs => rw [← cwPack_fields cw, cwCtl_cwPack]

/-- The control byte of an encoded command, from the two fields that make it up. -/
theorem cwCtl_cwPack_eq {data : BitVec 128} {len : BitVec 5} {op : BitVec 3} (hop : cwOp cw = op) (hlen : cwLen cw = len) :
    cwCtl (cwPack data len op) = cwCtl cw := by
  rw [cwCtl_cwPack, cwCtl_eq, hop, hlen]

/-- The beat the decoder takes from a word has the length the word's `len` field says. -/
theorem ofNat_length_beatOf (data : BitVec 128) {len : BitVec 5} {n : Nat} (h : len.toNat = n) :
    len = BitVec.ofNat 5 (beatOf data n).length := by
  rw [beatOf_length, ← h, BitVec.ofNat_toNat, BitVec.setWidth_eq]

/-- What the decoder answers is well-formed, and its encoding has the control byte of the word. -/
theorem wf_and_cwCtl_of_decode (h : decode cw = some i) : i.wf = true ∧ cwCtl (encode i) = cwCtl cw := by
  rcases op_cases (cwOp cw) with hop | hop | hop | hop | hop | hop
  · rw [decode_of_op_one hop, Option.ite_none_right_eq_some] at h
    obtain ⟨hlen, ⟨⟩⟩ := h
    exact ⟨rfl, cwCtl_cwPack_eq hop hlen⟩
  · rw [decode_of_op_two hop] at h
    split_ifs at h with h15 h16
    · cases h
      exact ⟨decide_eq_true ((beatOf_length _ _).trans_le h15), cwCtl_cwPack_eq hop (ofNat_length_beatOf _ rfl)⟩
    · cases h
      exact ⟨by simp [Instr.wf, beatOf_length], cwCtl_cwPack_eq hop (ofNat_length_beatOf _ h16)⟩
  · rw [decode_of_op_three hop, Option.ite_none_right_eq_some] at h
    obtain ⟨hlen, ⟨⟩⟩ := h
    exact ⟨rfl, cwCtl_cwPack_eq hop hlen⟩
  · rw [decode_of_op_four hop, Option.ite_none_right_eq_some] at h
    obtain ⟨hlen, ⟨⟩⟩ := h
    exact ⟨rfl, cwCtl_cwPack_eq hop hlen⟩
  · rw [decode_of_op_five hop, Option.ite_none_right_eq_some] at h
    obtain ⟨hlen, ⟨⟩⟩ := h
    exact ⟨rfl, cwCtl_cwPack_eq hop hlen⟩
  · cases (decode_of_op_reserved hop).symm.trans h

/-! ### Decoding after encoding -/

/-- Each constructor's word has its opcode and a `len` its row admits, and its operand is read back from `data`. -/
theorem decode_encode (hwf : i.wf = true) : decode (encode i) = some i := by
  cases i with
  | init seed =>
    rw [encode, decode_of_op_one (cwOp_cwPack ..), cwLen_cwPack, cwData_cwPack, if_pos rfl, seedOf_setWidth]
  | write beat =>
    have hl : beat.length ≤ 15 := of_decide_eq_true hwf
    rw [encode, decode_of_op_two (cwOp_cwPack ..), cwLen_cwPack, cwData_cwPack, toNat_len_of_le (by omega), if_pos hl,
      beatOf_packBeat beat (by omega)]
  | write16 beat =>
    have hl : beat.length = 16 := of_decide_eq_true hwf
    rw [encode, decode_of_op_two (cwOp_cwPack ..), cwLen_cwPack, cwData_cwPack, toNat_len_of_le hl.le,
      if_neg (by omega), if_pos hl, ← hl, beatOf_packBeat beat hl.le]
  | final => rw [encode, decode_of_op_three (cwOp_cwPack ..), cwLen_cwPack, if_pos rfl]
  | final64 => rw [encode, decode_of_op_four (cwOp_cwPack ..), cwLen_cwPack, if_pos rfl]
  | reset => rw [encode, decode_of_op_five (cwOp_cwPack ..), cwLen_cwPack, if_pos rfl]

end Sys2Proof

namespace Sys2Proof.Machine

/-! ### The pseudo-command WRITES (30_encoding.md R82) -/

theorem writesBlocks_zero (bytes : List Byte) : writesBlocks 0 bytes = if bytes = [] then [] else [.write bytes] := by
  cases bytes <;> rfl

theorem writesBlocks_succ (n : Nat) (bytes : List Byte) :
    writesBlocks (n + 1) bytes = .write16 (bytes.take 16) :: writesBlocks n (bytes.drop 16) := rfl

/-- What the expansion of a byte string is to be: well-formed WRITEs, the bytes in order, a command for every 16 bytes or
part of them. -/
def Expands (bytes : List Byte) (cs : List Instr) : Prop :=
  (∀ c ∈ cs, c.isWrite = true ∧ c.wf = true) ∧ cs.flatMap bytesOf = bytes ∧ cs.length = (bytes.length + 15) / 16

/-- `n` full beats and then what is left, less than one beat. -/
theorem expands_writesBlocks (n : Nat) (bytes : List Byte) (hn : bytes.length / 16 = n) :
    Expands bytes (writesBlocks n bytes) := by
  induction n generalizing bytes with
  | zero =>
    rw [writesBlocks_zero]
    split_ifs with hnil
    · subst hnil
      exact ⟨nofun, rfl, rfl⟩
    · have hpos : 0 < bytes.length := List.length_pos_iff.mpr hnil
      refine ⟨?_, by simp [bytesOf], by rw [List.length_singleton]; omega⟩
      rw [List.forall_mem_singleton]
      exact ⟨rfl, decide_eq_true (by omega)⟩
  | succ n ih =>
    have hlen : 16 ≤ bytes.length := by omega
    obtain ⟨hwrites, hbytes, hcount⟩ := ih (bytes.drop 16) (by rw [List.length_drop]; omega)
    have hfull : (bytes.take 16).length = 16 := by rw [List.length_take]; omega
    rw [writesBlocks_succ]
    refine ⟨List.forall_mem_cons.mpr ⟨⟨rfl, decide_eq_true hfull⟩, hwrites⟩, ?_, ?_⟩
    · rw [List.flatMap_cons, hbytes]
      exact List.take_append_drop 16 bytes
    · rw [List.length_cons, hcount, List.length_drop]
      omega

end Sys2Proof.Machine

namespace Sys2Proof.Certificates.Slice0

open Sys2Proof.Machine

/-- Settles O8: the packed fields are read back, and a seed or a beat of the row's length survives its packing. -/
theorem decodeOfEncode : Obligations.DecodeOfEncode := fun _ => decode_encode

/-- Settles O13: for each opcode the decoder answers only where `len` is one its command has. -/
theorem decodedCommandsReencode : Obligations.DecodedCommandsReencode := fun _ _ => wf_and_cwCtl_of_decode

/-- Settles O14, by induction on the number of full beats. -/
theorem writesExpansion : Obligations.WritesExpansion := fun bytes => expands_writesBlocks _ bytes rfl

/-- Settles O9: the decoder evaluated on the fourteen words of the table. -/
theorem workedWordsDecode : Obligations.WorkedWordsDecode := by
  unfold Obligations.WorkedWordsDecode
  decide

end Sys2Proof.Certificates.Slice0
end

section
/-! PROOFS. What an edge transfers and all that one step can do (30_encoding.md R71; 41_streaming_control.md R120, R121;
60_exceptions.md R197). -/

namespace Sys2Proof.Machine

variable {s t : State} {p : PortSample} {rest : List PortSample} {c : Option Instr} {i : Instr} {cw : CmdWord} {r : Response}

/-! ### The edge (30_encoding.md R71) -/

theorem edgeOf_of_empty (hr : p.rst = false) (hs : s.rsp = none) :
    edgeOf p s = if p.cmdValid then .accept p.word else .idle := by
  simp [edgeOf, State.cmdReady, State.rspValid, hr, hs]

theorem edgeOf_of_full (hr : p.rst = false) (hs : s.rsp = some r) :
    edgeOf p s = if p.rspReady then .take else .idle := by
  simp [edgeOf, State.cmdReady, State.rspValid, hr, hs]

/-- The edge depends on the sample and on whether `RSP` is empty. -/
theorem edgeOf_congr (h : s.rsp.isSome = t.rsp.isSome) : edgeOf p s = edgeOf p t := by
  have hvalid : s.rspValid p.rst = t.rspValid p.rst := by rw [State.rspValid, State.rspValid, h]
  have hready : s.cmdReady p.rst = t.cmdReady p.rst := by
    rw [State.cmdReady, State.cmdReady, ← Option.not_isSome, ← Option.not_isSome, h]
  rw [edgeOf, edgeOf, hvalid, hready]

theorem edgeOf_eq_accept_iff :
    edgeOf p s = .accept cw ↔ p.rst = false ∧ p.cmdValid = true ∧ s.rsp = none ∧ cw = p.word := by
  cases hr : p.rst with
  | true => simp [edgeOf_of_rst hr]
  | false =>
    cases hs : s.rsp with
    | none => cases hv : p.cmdValid <;> simp [edgeOf_of_empty hr hs, hv, eq_comm]
    | some r => cases hq : p.rspReady <;> simp [edgeOf_of_full hr hs, hq]

theorem edgeOf_eq_take_iff : edgeOf p s = .take ↔ p.rst = false ∧ p.rspReady = true ∧ s.rsp ≠ none := by
  cases hr : p.rst with
  | true => simp [edgeOf_of_rst hr]
  | false =>
    cases hs : s.rsp with
    | none => cases hv : p.cmdValid <;> simp [edgeOf_of_empty hr hs, hv]
    | some r => cases hq : p.rspReady <;> simp [edgeOf_of_full hr hs, hq]

theorem edgeOf_eq_reset_iff : edgeOf p s = .reset ↔ p.rst = true := by
  cases hr : p.rst with
  | true => simp [edgeOf_of_rst hr]
  | false =>
    cases hs : s.rsp with
    | none => cases hv : p.cmdValid <;> simp [edgeOf_of_empty hr hs, hv]
    | some r => cases hq : p.rspReady <;> simp [edgeOf_of_full hr hs, hq]

/-! ### The step -/

@[simp] theorem check_setPorts (c : Option Instr) (s : State) (ports : List PortSample) :
    check c (s.setPorts ports) = check c s := rfl

/-- All that one step can do, as `step_cases`, with the edge of each case and a refused word, illegal or not, as one case. -/
inductive StepKind (s : State) : State → Prop where
  /-- The host drives nothing more (60_exceptions.md R197). -/
  | silent (hp : s.ports = []) : StepKind s s
  /-- Nothing is transferred. -/
  | idle {p : PortSample} {rest : List PortSample} (hp : s.ports = p :: rest) (he : edgeOf p s = .idle) :
      StepKind s (s.setPorts rest)
  /-- Hardware reset (70_reset_and_hazards.md R200). -/
  | hardReset {p : PortSample} {rest : List PortSample} (hp : s.ports = p :: rest) (he : edgeOf p s = .reset) :
      StepKind s (s.setPorts rest).hardReset
  /-- The host takes the response. -/
  | take {p : PortSample} {rest : List PortSample} (hp : s.ports = p :: rest) (he : edgeOf p s = .take) :
      StepKind s (s.setPorts rest).takeRsp
  /-- The accepted word's command passes the check, and its pseudocode runs (41_streaming_control.md R120). -/
  | executed {p : PortSample} {rest : List PortSample} {i : Instr} (hp : s.ports = p :: rest)
      (he : edgeOf p s = .accept p.word) (hd : decode p.word = some i) (hc : check (some i) s = .proceed) :
      StepKind s (bodyOf i (s.setPorts rest))
  /-- The accepted word does not pass the check (60_exceptions.md R183). -/
  | refused {p : PortSample} {rest : List PortSample} (hp : s.ports = p :: rest)
      (he : edgeOf p s = .accept p.word) (hc : check (decode p.word) s ≠ .proceed) :
      StepKind s ((s.setPorts rest).refuse (decode p.word) (check (decode p.word) s))

theorem check_none_ne_proceed (s : State) : check none s ≠ .proceed := by
  cases he : s.err with
  | true => exact check_ne_proceed_of_err he
  | false => simp [check, checkWith_none he]

/-- The step at an edge that accepts a command. -/
theorem step_of_accept_command (hp : s.ports = p :: rest) (he : edgeOf p s = .accept cw) (hd : decode cw = some i) :
    step s = exec i (s.setPorts rest) := by
  rw [step_cons hp, he]
  simp only [hd]

/-- The step at an edge that accepts an illegal word. -/
theorem step_of_accept_illegal (hp : s.ports = p :: rest) (he : edgeOf p s = .accept cw) (hd : decode cw = none) :
    step s = .next (runIllegal (s.setPorts rest)) := by
  rw [step_cons hp, he]
  simp only [hd]

/-- Each of these is what the step does. -/
theorem StepKind.step_eq (h : StepKind s t) : step s = .next t := by
  cases h with
  | silent hp => exact step_nil hp
  | idle hp he | hardReset hp he | take hp he => rw [step_cons hp, he]
  | executed hp he hd hc => exact (step_of_accept_command hp he hd).trans (exec_legal hc)
  | @refused p rest hp he hc =>
    cases hd : decode p.word with
    | some i => exact (step_of_accept_command hp he hd).trans (exec_refused (hd ▸ hc))
    | none => exact step_of_accept_illegal hp he hd

/-- Every state has a next one. -/
theorem exists_stepKind (s : State) : ∃ t, StepKind s t := by
  rcases hp : s.ports with _ | ⟨p, rest⟩
  · exact ⟨_, .silent hp⟩
  cases he : edgeOf p s with
  | idle => exact ⟨_, .idle hp he⟩
  | reset => exact ⟨_, .hardReset hp he⟩
  | take => exact ⟨_, .take hp he⟩
  | accept cw =>
    obtain ⟨-, -, -, rfl⟩ := edgeOf_eq_accept_iff.mp he
    by_cases hc : check (decode p.word) s = .proceed
    · cases hd : decode p.word with
      | some i => exact ⟨_, .executed hp he hd (hd ▸ hc)⟩
      | none => exact absurd (hd ▸ hc) (check_none_ne_proceed s)
    · exact ⟨_, .refused hp he hc⟩

theorem step_eq_iff : step s = .next t ↔ StepKind s t := by
  refine ⟨fun h => ?_, StepKind.step_eq⟩
  obtain ⟨t', hkind⟩ := exists_stepKind s
  obtain rfl : t' = t := by injection hkind.step_eq.symm.trans h
  exact hkind

end Sys2Proof.Machine

namespace Sys2Proof.Certificates.Slice0

open Sys2Proof.Machine

/-- Settles O3: with `rst` nothing but the reset happens; without it an empty `RSP` lets a word in and a full one out. -/
theorem edgeTransfersExactly : Obligations.EdgeTransfersExactly :=
  fun _ _ => ⟨fun _ => edgeOf_eq_accept_iff, edgeOf_eq_take_iff, edgeOf_eq_reset_iff⟩

/-- Settles O5: while `RSP` is full the edge takes the response or is idle. -/
theorem waitingResponseIsKept : Obligations.WaitingResponseIsKept := by
  intro s t p rest r hs hp hr h
  rw [step_cons hp, edgeOf_of_full hr hs] at h
  cases hq : p.rspReady with
  | true => simpa [hq, State.takeRsp, State.setPorts] using h.symm
  | false => simpa [hq, State.setPorts, ← hs] using h.symm

/-- Settles O6: each thing a step can do ends in a next state. -/
theorem everyStepCompletes : Obligations.EveryStepCompletes := by
  intro s
  obtain ⟨t, hkind⟩ := exists_stepKind s
  exact ⟨t, hkind.step_eq⟩

/-- Settles O1: the decoded command is well-formed, and the edge with an empty `RSP` accepts the word. -/
theorem stepRunsDecodedCommand : Obligations.StepRunsDecodedCommand := by
  intro s p rest i hp hr hv hs hd
  refine ⟨(wf_and_cwCtl_of_decode hd).1, ?_⟩
  rw [step_of_accept_command hp (edgeOf_accept hr hv hs) hd]

/-- Settles O2: the accepted word is refused as ILLEGAL. -/
theorem stepRefusesIllegalWord : Obligations.StepRefusesIllegalWord := by
  intro s p rest hp hr hv hs hd
  rw [step_of_accept_illegal hp (edgeOf_accept hr hv hs) hd, runIllegal_eq]
  rfl

/-- Settles O7: with nothing offered, and nothing waiting or no readiness to take it, the edge is idle. -/
theorem idleEdgeKeepsState : Obligations.IdleEdgeKeepsState := by
  refine ⟨fun s => step_nil, fun s p rest hp hr hv hq => ?_⟩
  have hidle : edgeOf p s = .idle := by
    cases hs : s.rsp with
    | none => simp [edgeOf_of_empty hr hs, hv]
    | some r => simp [edgeOf_of_full hr hs, hq.resolve_right (by simp [hs])]
  rw [step_cons hp, hidle]

/-- Settles O50: both handshake outputs are the conjunction of `rst = 0` with one state of the slot. -/
theorem outputPortsShowSlot : Obligations.OutputPortsShowSlot := by
  intro s rst
  refine ⟨?_, ?_, fun h => if_pos h⟩
  · simp [State.outputs, State.cmdReady]
  · simp [State.outputs, State.rspValid, Option.isSome_iff_ne_none]

end Sys2Proof.Certificates.Slice0
end

section
/-! PROOFS. The invariants that every step keeps: of the registers and flags, and of a waiting response (10_state.md R20,
R25 to R28; 70_reset_and_hazards.md R214). -/

namespace Sys2Proof.Machine

variable {s t : State} {i : Instr} {c : Option Instr}

/-! ### Why a command is refused (60_exceptions.md R182) -/

/-- A first fault has one of three reasons, and codes 2 and 3 tell of the flags. -/
theorem check_cases_of_first_fault (he : s.err = false) (hc : check c s ≠ .proceed) :
    check c s = .illegal ∨ (check c s = .uninit ∧ s.valid = false) ∨ (check c s = .seq ∧ s.done = true) := by
  rcases c with _ | i
  · exact .inl (checkWith_none he)
  · rw [check, checkWith_some he] at hc ⊢
    split_ifs at hc ⊢ with huninit hseq
    · exact .inr (.inl ⟨rfl, huninit.1⟩)
    · exact .inr (.inr ⟨rfl, hseq.1⟩)
    · exact absurd rfl hc

theorem valid_of_check_proceed (hc : check (some i) s = .proceed) (hi : i.isInit = false) : s.valid = true := by
  obtain ⟨-, hsession, -⟩ := check_proceed_iff.mp hc
  exact hsession.resolve_right (by simp [hi])

theorem err_of_check_proceed (hc : check (some i) s = .proceed) : s.err = false := (check_proceed_iff.mp hc).1

/-! ### The registers and flags (10_state.md R25 to R28) -/

theorem low_bits_eq_zero_iff (v : Word) : v.extractLsb' 0 4 = 0 ↔ v.toNat % 16 = 0 := by
  rw [← BitVec.toNat_inj, BitVec.extractLsb'_toNat, Nat.shiftRight_zero]
  exact Iff.rfl

/-- Whole blocks leave the low four bits of the count alone. -/
theorem Absorbed.low_bits {all : List Byte} (h : Absorbed all s t) (hs : s.consumed.extractLsb' 0 4 = 0) :
    t.consumed.extractLsb' 0 4 = 0 := by
  rw [low_bits_eq_zero_iff] at hs ⊢
  rw [h.consumed_eq, BitVec.toNat_add, BitVec.toNat_ofNat]
  omega

/-- In a block without a fault the invariant is about `CONSUMED` and `DONE` alone. -/
theorem regInv_of_no_fault (hlow : s.valid = true → s.consumed.extractLsb' 0 4 = 0)
    (hdone : s.done = true → s.valid = true) (he : s.err = false) (hcode : s.errcode = 0) : RegInv s :=
  ⟨hlow, iff_of_true hcode he, hdone, fun h => absurd (hcode.symm.trans h) (by decide),
    fun h => absurd (hcode.symm.trans h) (by decide)⟩

theorem RegInv.refuse (h : RegInv s) (hc : check c s ≠ .proceed) : RegInv (s.refuse c (check c s)) := by
  obtain ⟨hlow, hcode, hdone, huninit, hseq⟩ := h
  simp only [RegInv, State.refuse_valid, State.refuse_consumed, State.refuse_errcode, State.refuse_err, State.refuse_done]
  cases he : s.err with
  | true =>
    rw [he] at hcode
    exact ⟨hlow, hcode, hdone, huninit, hseq⟩
  | false =>
    rw [if_neg Bool.false_ne_true]
    rcases check_cases_of_first_fault he hc with hv | ⟨hv, hvalid⟩ | ⟨hv, hd⟩ <;> rw [hv]
    · exact ⟨hlow, by decide, hdone, nofun, nofun⟩
    · exact ⟨hlow, by decide, hdone, fun _ => hvalid, nofun⟩
    · exact ⟨hlow, by decide, hdone, nofun, fun _ => hd⟩

theorem regInv_writeBody (bytes : List Byte) (hlow : s.valid = true → s.consumed.extractLsb' 0 4 = 0)
    (hdone : s.done = true → s.valid = true) (he : s.err = false) (hcode : s.errcode = 0) :
    RegInv (writeBody bytes s) := by
  refine regInv_of_no_fault ?_ ?_ ?_ ?_
  · rw [writeBody_valid]
    exact fun hv => (writeBody_absorbed bytes s).low_bits (hlow hv)
  · rwa [writeBody_done, writeBody_valid]
  · rwa [writeBody_err]
  · rwa [writeBody_errcode]

theorem RegInv.bodyOf (h : RegInv s) (hc : check (some i) s = .proceed) : RegInv (bodyOf i s) := by
  obtain ⟨hlow, hiff, hdone, -, -⟩ := h
  have he := err_of_check_proceed hc
  have hcode := hiff.mpr he
  cases i with
  | init seed => exact regInv_of_no_fault (fun _ => rfl) nofun he hcode
  | write beat => exact regInv_writeBody beat hlow hdone he hcode
  | write16 beat => exact regInv_writeBody beat hlow hdone he hcode
  | final | final64 =>
    have hv := valid_of_check_proceed hc rfl
    exact regInv_of_no_fault hlow (fun _ => hv) he hcode
  | reset => exact regInv_of_no_fault (fun _ => rfl) nofun he hcode

/-- No clause of the invariant speaks of the host's samples. -/
theorem RegInv.setPorts (h : RegInv s) (ports : List PortSample) : RegInv (s.setPorts ports) := h

theorem regInv_hardReset (s : State) : RegInv s.hardReset := regInv_of_no_fault nofun nofun rfl rfl

/-! ### A waiting response (70_reset_and_hazards.md R214) -/

theorem rspInv_of_empty (h : s.rsp = none) : RspInv s := fun _ hr => nomatch h.symm.trans hr

/-- A command that executes leaves the slot empty or puts the digest of the registers into it. -/
theorem rspInv_bodyOf (hs : s.rsp = none) (hc : check (some i) s = .proceed) : RspInv (bodyOf i s) := by
  cases i with
  | final | final64 =>
    have hv := valid_of_check_proceed hc rfl
    rintro r ⟨⟩
    exact .inr ⟨rfl, hv, rfl, rfl⟩
  | init _ | write _ | write16 _ | reset =>
    exact rspInv_of_empty ((exec_rsp_of_not_finalize (exec_legal hc) nofun nofun).trans hs)

/-- A refused word leaves the slot empty or puts an error into it, and the block is then faulted. -/
theorem rspInv_refuse {v : Verdict} (hs : s.rsp = none) : RspInv (s.refuse c v) := by
  intro r hr
  rcases answerRefused_rsp hr with h | h
  · cases hs.symm.trans ((State.raiseFault_rsp s v).symm.trans h)
  · exact .inl ⟨h, State.refuse_err ..⟩

end Sys2Proof.Machine

namespace Sys2Proof.Certificates.Slice0

open Sys2Proof.Machine

/-- Settles O55, by the cases of a step: only WRITE moves the count on, by whole blocks, and only a refusal records a code,
one that the flags it met explain. -/
theorem stepKeepsInvariant : Obligations.StepKeepsInvariant := by
  intro s t hinv h
  cases step_eq_iff.mp h with
  | silent => exact hinv
  | idle => exact hinv
  | hardReset => exact regInv_hardReset _
  | take => exact hinv
  | executed _ _ _ hc => exact (hinv.setPorts _).bodyOf hc
  | refused _ _ hc => exact (hinv.setPorts _).refuse hc

/-- Settles O56, by the cases of a step: a word is accepted only while the slot is empty, and what then fills it is the
digest of the registers or an error. -/
theorem stepKeepsResponseCurrent : Obligations.StepKeepsResponseCurrent := by
  intro s t hinv h
  cases step_eq_iff.mp h with
  | silent => exact hinv
  | idle => exact hinv
  | hardReset => exact rspInv_of_empty rfl
  | take => exact rspInv_of_empty rfl
  | executed _ he _ hc =>
    obtain ⟨-, -, hs, -⟩ := edgeOf_eq_accept_iff.mp he
    exact rspInv_bodyOf hs hc
  | refused _ he _ =>
    obtain ⟨-, -, hs, -⟩ := edgeOf_eq_accept_iff.mp he
    exact rspInv_refuse hs

/-- Settles O54: the flags are 0 and `RSP` is empty, so no clause reads a data register. -/
theorem invariantsHoldAtReset : Obligations.InvariantsHoldAtReset :=
  ⟨regInv_of_no_fault nofun nofun rfl rfl, rspInv_of_empty rfl, rfl⟩

/-- Settles O51, by the cases of a step: of the commands only INIT writes `SEED`. -/
theorem seedWrittenOnlyByInit : Obligations.SeedWrittenOnlyByInit := by
  intro s t h hne
  cases step_eq_iff.mp h with
  | silent => exact absurd rfl hne
  | idle => exact absurd rfl hne
  | @hardReset p rest hp he => exact ⟨p, rest, hp, .inl (edgeOf_eq_reset_iff.mp he)⟩
  | take => exact absurd rfl hne
  | @executed p rest i hp he hd hc =>
    refine ⟨p, rest, hp, .inr ⟨he, ?_⟩⟩
    cases i with
    | init seed => exact hd
    | write beat => exact absurd (writeBody_seed ..) hne
    | write16 beat => exact absurd (writeBody_seed ..) hne
    | final | final64 | reset => exact absurd rfl hne
  | refused => exact absurd (State.refuse_seed ..) hne

end Sys2Proof.Certificates.Slice0
end

section
/-! PROOFS. Rotation, shift, byte position and the product from limbs (40_arith_primitives.md R104 to R106, R110), and the
operations that lose nothing (R111, 44_avalanche.md R172). -/

namespace Sys2Proof.Machine

/-! ### Bits and bytes (40_arith_primitives.md R104 to R106) -/

/-- The model's rotation is that of the library, for the counts R104 allows. -/
theorem rotl64_eq_rotateLeft (x : Word) {r : Nat} (hr : r < 64) : rotl64 x r = x.rotateLeft r := by
  rw [BitVec.rotateLeft_def, Nat.mod_eq_of_lt hr, rotl64]

/-- The bit that comes to stand at place `(i + r) mod 64`. -/
theorem getLsbD_rotl64 (x : Word) {r i : Nat} (hr : r < 64) (hi : i < 64) :
    (rotl64 x r).getLsbD ((i + r) % 64) = x.getLsbD i := by
  rw [rotl64_eq_rotateLeft x hr, BitVec.getLsbD_rotateLeft_of_le hr]
  by_cases hwrap : i + r < 64
  · rw [Nat.mod_eq_of_lt hwrap]
    simp [hwrap]
  · have hplace : (i + r) % 64 = i + r - 64 := by omega
    rw [hplace, cond_eq_ite, if_pos (by simp; omega)]
    congr 1
    omega

theorem toNat_shr64 (x : Word) (r : Nat) : (shr64 x r).toNat = x.toNat / 2 ^ r := by
  rw [shr64, BitVec.toNat_ushiftRight, Nat.shiftRight_eq_div_pow]

/-- A placed byte does not reach past the top of the word. -/
theorem toNat_bytepos (b : Byte) {i : Nat} (hi : i ≤ 7) : (bytepos b i).toNat = b.toNat * 2 ^ (8 * i) := by
  have hfits : b.toNat * 2 ^ (8 * i) < 2 ^ 64 :=
    calc b.toNat * 2 ^ (8 * i) < 2 ^ 8 * 2 ^ (8 * i) := Nat.mul_lt_mul_of_pos_right b.isLt (by positivity)
      _ = 2 ^ (8 + 8 * i) := (pow_add 2 8 (8 * i)).symm
      _ ≤ 2 ^ 64 := Nat.pow_le_pow_right (by decide) (by omega)
  rw [bytepos, BitVec.toNat_shiftLeft, BitVec.toNat_setWidth_of_le (by decide), Nat.shiftLeft_eq, Nat.mod_eq_of_lt hfits]

/-! ### The operations that lose nothing (40_arith_primitives.md R111) -/

theorem xor64_bijective_left (k : Word) : Function.Bijective (xor64 · k) :=
  Function.Involutive.bijective fun x => by simp [xor64]

theorem add64_bijective_left (k : Word) : Function.Bijective (add64 · k) := by
  simpa only [add64_eq] using AddGroup.addRight_bijective k

/-- A rotation by `r` is undone by one of `64 - r`: an injective map of a finite set is a bijection. -/
theorem rotl64_bijective {r : Nat} (hr : r < 64) : Function.Bijective (rotl64 · r) := by
  refine Finite.injective_iff_bijective.mp fun x y hxy => BitVec.eq_of_getLsbD_eq fun i hi => ?_
  rw [← getLsbD_rotl64 x hr hi, ← getLsbD_rotl64 y hr hi]
  exact congrArg (BitVec.getLsbD · ((i + r) % 64)) hxy

/-- A product with `k` is undone by one with its inverse modulo 2^64. -/
theorem mul64_bijective_left {k inv : Word} (hinv : k * inv = 1) : Function.Bijective (mul64 · k) :=
  IsUnit.isUnit_iff_mulLeft_bijective.mp (IsUnit.of_mul_eq_one inv hinv)

/-- Shifted by 33 twice, a word is gone; so the step is its own inverse. -/
theorem xorShift33_bijective : Function.Bijective xorShift33 := by
  refine Function.Involutive.bijective fun x => BitVec.eq_of_getLsbD_eq fun i hi => ?_
  have hgone : x.getLsbD (33 + (33 + i)) = false := BitVec.getLsbD_of_ge _ _ (by omega)
  simp [xorShift33, xor64, shr64, hgone]

/-! ### The scramblers, the avalanche and BLOCKMIX -/

theorem c1_mul_inv : Config.c1 * 0xa98409e882ce4d7d = 1 := by decide
theorem c2_mul_inv : Config.c2 * 0xa81e14edd9de2c7f = 1 := by decide
theorem f1_mul_inv : Config.f1 * 0x4f74430c22a54005 = 1 := by decide
theorem f2_mul_inv : Config.f2 * 0x9cb4b2f8129337db = 1 := by decide
theorem five_mul_inv : (5 : Word) * 0xcccccccccccccccd = 1 := by decide

theorem mixK1_bijective : Function.Bijective mixK1 :=
  (mul64_bijective_left c2_mul_inv).comp <| (rotl64_bijective (by decide)).comp (mul64_bijective_left c1_mul_inv)

theorem mixK2_bijective : Function.Bijective mixK2 :=
  (mul64_bijective_left c1_mul_inv).comp <| (rotl64_bijective (by decide)).comp (mul64_bijective_left c2_mul_inv)

theorem fmix64_bijective : Function.Bijective fmix64 :=
  xorShift33_bijective.comp <| (mul64_bijective_left f2_mul_inv).comp <|
    xorShift33_bijective.comp <| (mul64_bijective_left f1_mul_inv).comp xorShift33_bijective

theorem mul5add_bijective (n : Word) : Function.Bijective (mul5add · n) :=
  (add64_bijective_left n).comp (mul64_bijective_left five_mul_inv)

/-- The `h1` path is a chain of bijections once the old `h2` and the block are fixed. -/
theorem blockMix_fst_bijective (h2 : Word) (blk : List Byte) : Function.Bijective fun h1 => (blockMix h1 h2 blk).1 := by
  simp only [blockMix_fst]
  exact (mul5add_bijective Config.n1).comp <| (add64_bijective_left h2).comp <|
    (rotl64_bijective (by decide)).comp (xor64_bijective_left (mixK1 (memRead blk 0)))

theorem mixK1_zero : mixK1 0 = 0 := by decide
theorem mixK2_zero : mixK2 0 = 0 := by decide
theorem fmix64_zero : fmix64 0 = 0 := by decide

/-! ### The total length (10_state.md R40) -/

/-- `CONSUMED` and `PLEN` occupy different bits. -/
theorem State.totalLength_of_low_bits {s : State} (h : s.consumed.extractLsb' 0 4 = 0) :
    s.totalLength = (s.consumed.extractLsb' 4 60 ++ s.plen : BitVec (60 + 4)) := by
  rw [low_bits_eq_zero_iff] at h
  have hp := s.plen.isLt
  have hc := s.consumed.isLt
  apply BitVec.eq_of_toNat_eq
  rw [State.totalLength_eq, BitVec.toNat_add, BitVec.toNat_setWidth_of_le (by decide), BitVec.toNat_append,
    ← Nat.shiftLeft_add_eq_or_of_lt hp, Nat.shiftLeft_eq, BitVec.extractLsb'_toNat, Nat.shiftRight_eq_div_pow]
  omega

end Sys2Proof.Machine

namespace Sys2Proof.Certificates.Slice0

open Sys2Proof.Machine

/-- Settles O16: the model's rotation is the library's, whose bits are known. -/
theorem rotateMovesEveryBit : Obligations.RotateMovesEveryBit :=
  fun x _ _ _ hr hi => getLsbD_rotl64 x (by omega) hi

/-- Settles O17: a shift right divides, and a shift left that stays in the word multiplies. -/
theorem shiftAndBytePosition : Obligations.ShiftAndBytePosition :=
  ⟨fun x => toNat_shr64 x 33, fun b _ hi => toNat_bytepos b hi⟩

/-- Settles O19: the six partial products at position 64 and above are multiples of 2^64. -/
theorem mulFromLimbs : Obligations.MulFromLimbs := by
  intro a b a0 a1 a2 a3 b0 b1 b2 b3 ha hb
  have hsplit :
      (a3 * 2 ^ 48 + a2 * 2 ^ 32 + a1 * 2 ^ 16 + a0) * (b3 * 2 ^ 48 + b2 * 2 ^ 32 + b1 * 2 ^ 16 + b0) =
        (a0 * b0 + (a0 * b1 + a1 * b0) * 2 ^ 16 + (a0 * b2 + a1 * b1 + a2 * b0) * 2 ^ 32 +
          (a0 * b3 + a1 * b2 + a2 * b1 + a3 * b0) * 2 ^ 48) +
        2 ^ 64 * ((a1 * b3 + a2 * b2 + a3 * b1) + (a2 * b3 + a3 * b2) * 2 ^ 16 + a3 * b3 * 2 ^ 32) := by
    ring
  rw [toNat_mul64, ha, hb, hsplit, Nat.add_mul_mod_self_left]

/-- Settles O20: each is a chain of products with odd constants, rotations and shifts, all bijections. -/
theorem scramblersAreBijections : Obligations.ScramblersAreBijections :=
  ⟨⟨mixK1_bijective, mixK1_zero⟩, ⟨mixK2_bijective, mixK2_zero⟩, ⟨fmix64_bijective, fmix64_zero⟩⟩

/-- Settles O21: `h1` passes through an exclusive or, a rotation, a sum and `mul5add`, all bijections. -/
theorem blockMixBijectiveInH1 : Obligations.BlockMixBijectiveInH1 := blockMix_fst_bijective

/-- Settles O25: with the low four bits of `CONSUMED` zero the sum has no carry. -/
theorem totalLengthIsConcatenation : Obligations.TotalLengthIsConcatenation :=
  fun _ => State.totalLength_of_low_bits

end Sys2Proof.Certificates.Slice0
end

section
/-! PROOFS. The tail ladder in closed form, and the digest of the empty input (43_tail_finalizer.md R151 to R154, R163). -/

namespace Sys2Proof.Machine

open Sys2Proof.Certificates.Slice0 (memReadIsLittleEndian)

/-! ### A word is its eight bytes -/

theorem word_ext_of_lanes {x y : Word} (h : ∀ j, j < 8 → x.extractLsb' (8 * j) 8 = y.extractLsb' (8 * j) 8) : x = y := by
  refine BitVec.eq_of_getLsbD_eq fun i hi => ?_
  have hbit := congrArg (BitVec.getLsbD · (i % 8)) (h (i / 8) (by omega))
  simpa [Nat.mod_lt, Nat.div_add_mod] using hbit

theorem memRead_eq_zero {space : List Byte} {a : Nat} (h : ∀ j, j < 8 → byteAt space (a + j) = 0) :
    memRead space a = 0 :=
  word_ext_of_lanes fun j hj => by rw [memReadIsLittleEndian space a j hj, h j hj]; simp

/-! ### The pending bytes followed by zeros (43_tail_finalizer.md R153) -/

/-- The sixteen bytes the closed form decodes. -/
def padded (pend : List Byte) (plen : Nat) : List Byte := pend.take plen ++ List.replicate (16 - plen) 0

theorem byteAt_padded {pend : List Byte} {plen : Nat} (hl : plen ≤ pend.length) (i : Nat) :
    byteAt (padded pend plen) i = if i < plen then byteAt pend i else 0 := by
  have htake : (pend.take plen).length = plen := List.length_take_of_le hl
  simp only [byteAt, padded, List.getD_eq_getElem?_getD]
  split_ifs with hi
  · rw [List.getElem?_append_left (by omega), List.getElem?_take_of_lt hi]
  · rw [List.getElem?_append_right (by omega), List.getElem?_replicate]
    split_ifs <;> rfl

theorem byteAt_padded_past {pend : List Byte} {plen i : Nat} (hl : plen ≤ pend.length) (hi : plen ≤ i) :
    byteAt (padded pend plen) i = 0 := by
  rw [byteAt_padded hl, if_neg (by omega)]

/-! ### The ladder (43_tail_finalizer.md R151, R152) -/

/-- A rung past `PLEN` adds a zero byte. -/
theorem tailRung_eq {pend : List Byte} {plen : Nat} (hl : plen ≤ pend.length) (i pos : Nat) (k : Word) :
    tailRung pend plen i pos k = k ^^^ bytepos (byteAt (padded pend plen) i) pos := by
  rw [tailRung, byteAt_padded hl]
  by_cases hi : i < plen
  · rw [if_pos (by omega), if_pos hi, xor64]
  · rw [if_neg (by omega), if_neg hi]
    simp [bytepos]

/-- The rungs 7 to 0 place the first eight bytes, each in its own lane. -/
theorem tailK1_eq {pend : List Byte} {plen : Nat} (hl : plen ≤ pend.length) :
    tailK1 pend plen = memRead (padded pend plen) 0 := by
  refine word_ext_of_lanes fun j hj => ?_
  rw [memReadIsLittleEndian _ 0 j hj]
  simp only [tailK1, tailRung_eq hl, BitVec.extractLsb'_xor, extractLsb'_bytepos _ hj]
  interval_cases j <;> simp

/-- The rungs 14 to 8 place the next seven; the byte that would be the sixteenth is zero. -/
theorem tailK2_eq {pend : List Byte} {plen : Nat} (h15 : plen ≤ 15) (hl : plen ≤ pend.length) :
    tailK2 pend plen = memRead (padded pend plen) 8 := by
  refine word_ext_of_lanes fun j hj => ?_
  have hlast : byteAt (padded pend plen) 15 = 0 := byteAt_padded_past hl h15
  rw [memReadIsLittleEndian _ 8 j hj]
  simp only [tailK2, tailRung_eq hl, BitVec.extractLsb'_xor, extractLsb'_bytepos _ hj]
  interval_cases j <;> simp [hlast]

theorem xor64_zero (x : Word) : xor64 x 0 = x := BitVec.xor_zero

/-- Below its gate a word of the tail is zero, and mixing zero changes nothing. -/
theorem tailFold_eq (t1 t2 : Word) {pend : List Byte} {plen : Nat} (h15 : plen ≤ 15) (hl : plen ≤ pend.length) :
    tailFold t1 t2 pend plen =
      (xor64 t1 (mixK1 (memRead (padded pend plen) 0)), xor64 t2 (mixK2 (memRead (padded pend plen) 8))) := by
  rw [tailFold, tailK1_eq hl, tailK2_eq h15 hl]
  congr 1
  · split_ifs with hgate
    · rfl
    · rw [memRead_eq_zero fun j _ => byteAt_padded_past hl (by omega), mixK1_zero, xor64_zero]
  · split_ifs with hgate
    · rfl
    · rw [memRead_eq_zero fun j _ => byteAt_padded_past hl (by omega), mixK2_zero, xor64_zero]

/-- Only the bytes below `PLEN` matter (43_tail_finalizer.md R154). -/
theorem tailFold_congr (t1 t2 : Word) {pend pend' : List Byte} {plen : Nat} (h15 : plen ≤ 15) (hl : plen ≤ pend.length)
    (hl' : plen ≤ pend'.length) (h : pend.take plen = pend'.take plen) :
    tailFold t1 t2 pend plen = tailFold t1 t2 pend' plen := by
  rw [tailFold_eq t1 t2 h15 hl, tailFold_eq t1 t2 h15 hl', padded, padded, h]

/-! ### The empty input (43_tail_finalizer.md R163) -/

/-- No block, no tail, and the length 0 folded in. -/
theorem mm3_nil (seed : Word) : mm3 seed [] = finMix seed seed := by
  have htail : tailFold seed seed [] 0 = (seed, seed) := rfl
  simp only [mm3, finalizeWords_eq, List.length_nil, Nat.zero_div, Nat.zero_mod, foldBlocks_zero, List.drop_nil, htail]
  rw [BitVec.xor_zero]

end Sys2Proof.Machine

namespace Sys2Proof.Certificates.Slice0

open Sys2Proof.Machine

/-- Settles O23: each rung places one byte of the padded buffer. -/
theorem tailFoldClosedForm : Obligations.TailFoldClosedForm := fun t1 t2 _ _ h15 hl => tailFold_eq t1 t2 h15 hl

/-- Settles O26: the digest of the empty input is the final mix alone, evaluated for the two printed seeds. -/
theorem emptyInputDigest : Obligations.EmptyInputDigest := by
  refine ⟨mm3_nil, ?_, ?_⟩ <;> rw [mm3_nil] <;> decide

end Sys2Proof.Certificates.Slice0
end

section
/-! PROOFS. Sequences of WRITEs, the view of a session they build up, and its digest (41_streaming_control.md R124 to R134;
10_state.md R41; 43_tail_finalizer.md R160 to R162). -/

namespace Sys2Proof.Machine

open Sys2Proof.Certificates.Slice0 (AllWrites WriteReady WriteOf)

variable {s t u : State} {a b bytes beat msg : List Byte} {i : Instr} {cs : List Instr} {seed : Word}

/-! ### Bytes absorbed one piece after the other -/

theorem Absorbed.drop_eq_pending (h : Absorbed a s t) : (a ++ b).drop (16 * (a.length / 16)) = t.pending ++ b := by
  rw [List.drop_append_of_le_length (by omega), h.pending_eq]

/-- The bytes pending after the first piece go in front of the second. -/
theorem Absorbed.length_div (h : Absorbed a s t) :
    (a ++ b).length / 16 = a.length / 16 + (t.pending ++ b).length / 16 := by
  rw [← h.drop_eq_pending, List.length_drop, List.length_append]
  omega

theorem Absorbed.trans (hst : Absorbed a s t) (htu : Absorbed (t.pending ++ b) t u) : Absorbed (a ++ b) s u := by
  have hq := hst.length_div (b := b)
  constructor
  · rw [htu.acc_eq, hst.acc_eq, hq, foldBlocks_add, hst.drop_eq_pending, foldBlocks_append _ a b _ (by omega)]
  · rw [htu.consumed_eq, hst.consumed_eq, hq, Nat.mul_add, BitVec.ofNat_add, BitVec.add_assoc]
  · rw [htu.plen_eq, ← hst.drop_eq_pending, List.length_drop, List.length_append]
    omega
  · rw [htu.pending_eq, hq, Nat.mul_add, ← List.drop_drop, hst.drop_eq_pending]

/-- The pending bytes make up no block. -/
theorem Absorbed.self (s : State) : Absorbed s.pending s s := by
  have hlt : s.pending.length < 16 := pending_length s ▸ s.plen.isLt
  have hq : s.pending.length / 16 = 0 := Nat.div_eq_of_lt hlt
  constructor
  · rw [hq, foldBlocks_zero]
  · rw [hq]
    exact (BitVec.add_zero _).symm
  · rw [Nat.mod_eq_of_lt hlt, pending_length]
  · rw [hq]
    rfl

/-! ### What WRITEs of some bytes do, with their frame (41_streaming_control.md R125) -/

/-- The state `t` that WRITEs of `bytes` in all leave when they execute in `s`. -/
structure Wrote (bytes : List Byte) (s t : State) : Prop where
  absorbed : Absorbed (s.pending ++ bytes) s t
  ports_eq : t.ports = s.ports
  seed_eq : t.seed = s.seed
  valid_eq : t.valid = s.valid
  done_eq : t.done = s.done
  err_eq : t.err = s.err
  errcode_eq : t.errcode = s.errcode
  rsp_eq : t.rsp = s.rsp

theorem wrote_writeBody (bytes : List Byte) (s : State) : Wrote bytes s (writeBody bytes s) where
  absorbed := writeBody_absorbed bytes s
  ports_eq := writeBody_ports ..
  seed_eq := writeBody_seed ..
  valid_eq := writeBody_valid ..
  done_eq := writeBody_done ..
  err_eq := writeBody_err ..
  errcode_eq := writeBody_errcode ..
  rsp_eq := writeBody_rsp ..

theorem Wrote.nil (s : State) : Wrote [] s s :=
  ⟨(List.append_nil _).symm ▸ Absorbed.self s, rfl, rfl, rfl, rfl, rfl, rfl, rfl⟩

theorem Wrote.trans (hst : Wrote a s t) (htu : Wrote b t u) : Wrote (a ++ b) s u where
  absorbed := List.append_assoc .. ▸ hst.absorbed.trans htu.absorbed
  ports_eq := htu.ports_eq.trans hst.ports_eq
  seed_eq := htu.seed_eq.trans hst.seed_eq
  valid_eq := htu.valid_eq.trans hst.valid_eq
  done_eq := htu.done_eq.trans hst.done_eq
  err_eq := htu.err_eq.trans hst.err_eq
  errcode_eq := htu.errcode_eq.trans hst.errcode_eq
  rsp_eq := htu.rsp_eq.trans hst.rsp_eq

theorem Wrote.ready (h : Wrote bytes s t) (hr : WriteReady s) : WriteReady t :=
  ⟨h.err_eq.trans hr.1, h.valid_eq.trans hr.2.1, h.done_eq.trans hr.2.2⟩

theorem Wrote.status_eq (h : Wrote bytes s t) : t.status = s.status := by
  rw [State.status, State.status, h.errcode_eq, h.err_eq, h.done_eq, h.valid_eq]

/-- Two states that absorbed the same bytes from states with the same data have the same data. -/
theorem Wrote.sameData {s' t' : State} (hs : SameData s s') (h : Wrote bytes s t) (h' : Wrote bytes s' t') :
    SameData t t' := by
  obtain ⟨hseed, hh1, hh2, hcons, -, hpend⟩ := hs
  have hacc : (t.h1, t.h2) = (t'.h1, t'.h2) := by
    rw [h.absorbed.acc_eq, h'.absorbed.acc_eq, hpend, hh1, hh2]
  obtain ⟨hh1', hh2'⟩ := Prod.mk.inj hacc
  refine ⟨?_, hh1', hh2', ?_, BitVec.eq_of_toNat_eq ?_, ?_⟩
  · rw [h.seed_eq, h'.seed_eq, hseed]
  · rw [h.absorbed.consumed_eq, h'.absorbed.consumed_eq, hpend, hcons]
  · rw [h.absorbed.plen_eq, h'.absorbed.plen_eq, hpend]
  · rw [h.absorbed.pending_eq, h'.absorbed.pending_eq, hpend]

/-! ### Executing WRITEs (41_streaming_control.md R133) -/

theorem check_proceed_of_writeReady (hr : WriteReady s) : check (some i) s = .proceed :=
  check_proceed_iff.mpr ⟨hr.1, .inl hr.2.1, by simp [hr.2.2]⟩

theorem bodyOf_of_isWrite (hw : i.isWrite = true) : bodyOf i = writeBody (bytesOf i) := by
  cases i with
  | write _ | write16 _ => rfl
  | init _ | final | final64 | reset => exact nomatch hw

theorem exec_write (hw : i.isWrite = true) (hr : WriteReady s) : exec i s = .next (writeBody (bytesOf i) s) := by
  rw [exec_legal (check_proceed_of_writeReady hr), bodyOf_of_isWrite hw]

theorem execAll_cons (h : exec i s = .next t) : execAll (i :: cs) s = execAll cs t := by
  simp only [execAll, h]

theorem execAll_writes (hw : AllWrites cs) (hr : WriteReady s) :
    ∃ t, execAll cs s = .next t ∧ Wrote (cs.flatMap bytesOf) s t := by
  induction cs generalizing s with
  | nil => exact ⟨s, rfl, Wrote.nil s⟩
  | cons i cs ih =>
    obtain ⟨⟨hi, -⟩, hcs⟩ := List.forall_mem_cons.mp hw
    have hwrote := wrote_writeBody (bytesOf i) s
    obtain ⟨t, hrun, ht⟩ := ih hcs (hwrote.ready hr)
    exact ⟨t, (execAll_cons (exec_write hi hr)).trans hrun, hwrote.trans ht⟩

theorem SameData.refl (s : State) : SameData s s := ⟨rfl, rfl, rfl, rfl, rfl, rfl⟩

/-- The empty beat makes up no block and leaves the buffer as it is (41_streaming_control.md R126). -/
theorem writeBody_nil (s : State) : writeBody [] s = s := by
  have hput (k : Nat) (hk : k = s.plen.toNat) : s.putPend k [] = s := by
    simp [State.putPend, putBytes, hk]
  rw [writeBody]
  split_ifs with hzero hshort
  · exact hput 0 (by simp [hzero])
  · exact hput _ rfl
  · exact absurd (by simpa using s.plen.isLt) hshort

theorem isWrite_of_writeOf (h : WriteOf i beat) : i.isWrite = true ∧ bytesOf i = beat ∧ beat.length ≤ 16 := by
  rcases h with ⟨rfl, hl⟩ | ⟨rfl, hl⟩
  · exact ⟨rfl, rfl, by omega⟩
  · exact ⟨rfl, rfl, by omega⟩

/-! ### The view of a session (10_state.md R41) -/

/-- The view says what has been absorbed since INIT; `State.reset` stands here for any state INIT executes in. -/
theorem view_iff_absorbed :
    View seed msg s ↔ s.seed = seed ∧ Absorbed msg (initBody seed State.reset) s := by
  have hzero : (initBody seed State.reset).consumed + BitVec.ofNat 64 (16 * (msg.length / 16)) =
      BitVec.ofNat 64 (16 * (msg.length / 16)) := BitVec.zero_add _
  constructor
  · rintro ⟨hseed, hacc, hcons, hplen, hpend⟩
    exact ⟨hseed, hacc, hcons.trans hzero.symm, hplen, hpend⟩
  · rintro ⟨hseed, hacc, hcons, hplen, hpend⟩
    exact ⟨hseed, hacc, hcons.trans hzero, hplen, hpend⟩

theorem view_initBody (seed : Word) (s : State) : View seed [] (initBody seed s) :=
  ⟨rfl, rfl, rfl, rfl, pending_of_plen_zero rfl⟩

/-- Bytes written go to the end of the message (41_streaming_control.md R130). -/
theorem View.wrote (hv : View seed msg s) (h : Wrote bytes s t) : View seed (msg ++ bytes) t := by
  obtain ⟨hseed, habs⟩ := view_iff_absorbed.mp hv
  exact view_iff_absorbed.mpr ⟨h.seed_eq.trans hseed, habs.trans h.absorbed⟩

/-- The view speaks of the defined data alone. -/
theorem View.congr (hv : View seed msg s) (hd : SameData s t) : View seed msg t := by
  obtain ⟨hseed, hh1, hh2, hcons, hplen, hpend⟩ := hd
  obtain ⟨hseed', hacc, hcons', hplen', hpend'⟩ := hv
  exact ⟨hseed ▸ hseed', hh1 ▸ hh2 ▸ hacc, hcons ▸ hcons', hplen ▸ hplen', hpend ▸ hpend'⟩

/-! ### The digest (43_tail_finalizer.md R154, R162) -/

/-- The digest reads the defined bytes of `PEND` alone. -/
theorem digest_eq (s : State) : s.digest = finalizeWords s.h1 s.h2 s.pending s.plen.toNat s.totalLength := by
  have h15 : s.plen.toNat ≤ 15 := Nat.le_of_lt_succ s.plen.isLt
  have htail : tailFold s.h1 s.h2 s.pend.toList s.plen.toNat = tailFold s.h1 s.h2 s.pending s.plen.toNat :=
    tailFold_congr _ _ h15 (by rwa [pend_length]) (pending_length s).ge (by simp [State.pending])
  rw [State.digest, finalizeWords_eq, finalizeWords_eq, htail]

theorem SameData.digest_eq (hd : SameData s t) : s.digest = t.digest := by
  obtain ⟨-, hh1, hh2, hcons, hplen, hpend⟩ := hd
  rw [Machine.digest_eq, Machine.digest_eq, State.totalLength, State.totalLength, hh1, hh2, hcons, hplen, hpend]

theorem View.totalLength_eq (hv : View seed msg s) : s.totalLength = BitVec.ofNat 64 msg.length := by
  have hplen : s.plen.setWidth 64 = BitVec.ofNat 64 (msg.length % 16) := by
    rw [← hv.plen_eq, BitVec.ofNat_toNat]
  rw [State.totalLength_eq, hv.consumed_eq, hplen, ← BitVec.ofNat_add, Nat.div_add_mod]

/-- In a session the digest is that of its seed and message. -/
theorem View.digest_eq (hv : View seed msg s) : s.digest = mm3 seed msg := by
  rw [Machine.digest_eq, hv.totalLength_eq, hv.plen_eq, hv.pending_eq, mm3, ← hv.acc_eq]

end Sys2Proof.Machine

namespace Sys2Proof.Certificates.Slice0

open Sys2Proof.Machine

/-- Settles O30: the pending bytes and the beat are one sequence of at most 31 bytes, no block or one and the rest. -/
theorem writeCases : Obligations.WriteCases := by
  intro i beat s hof hr
  obtain ⟨hw, hbytes, hlen⟩ := isWrite_of_writeOf hof
  have hwrote := wrote_writeBody beat s
  have habs := hwrote.absorbed
  have hall := pending_append_length s beat
  have hplen := s.plen.isLt
  refine ⟨_, hbytes ▸ exec_write hw hr, ?_, fun hshort => ?_, fun hfull => ?_, hwrote.ports_eq, hwrote.seed_eq,
    hwrote.valid_eq, hwrote.done_eq, hwrote.err_eq, hwrote.errcode_eq, hwrote.rsp_eq⟩
  · rw [habs.plen_eq, hall]
  · obtain ⟨hh1, hh2, hcons⟩ := habs.of_length_lt (by omega)
    refine ⟨hh1, hh2, hcons, ?_⟩
    rw [habs.pending_eq, hall, Nat.div_eq_of_lt hshort]
    rfl
  · have hq : (s.pending ++ beat).length / 16 = 1 := by omega
    obtain ⟨hacc, hcons⟩ := habs.of_one_block hq
    refine ⟨take_pending_append s beat ▸ hacc, hcons, ?_⟩
    rw [habs.pending_eq, hq, List.drop_append, List.drop_eq_nil_of_le (by rw [pending_length]; omega), pending_length]
    rfl

/-- Settles O31: no byte is put and `PLEN` is written back. -/
theorem emptyWriteChangesNothing : Obligations.EmptyWriteChangesNothing := by
  intro s hr
  rw [exec_write rfl hr]
  exact congrArg _ (writeBody_nil s)

/-- Settles O32: what the WRITE absorbs comes after what the session had absorbed. -/
theorem writeExtendsMessage : Obligations.WriteExtendsMessage := by
  intro seed msg beat i s hv hof hr
  obtain ⟨hw, hbytes, -⟩ := isWrite_of_writeOf hof
  have hwrote := wrote_writeBody beat s
  exact ⟨_, hbytes ▸ exec_write hw hr, hv.wrote hwrote, hwrote.ready hr⟩

/-- Settles O33: what WRITEs leave is determined by the bytes they carry together. -/
theorem streamingEquivalence : Obligations.StreamingEquivalence := by
  intro s cs ds hr hcs hds hbytes
  obtain ⟨t, ht, hst⟩ := execAll_writes hcs hr
  obtain ⟨u, hu, hsu⟩ := execAll_writes hds hr
  rw [hbytes] at hst
  exact ⟨t, u, ht, hu, hst.sameData (SameData.refl s) hsu, hst.status_eq.trans hsu.status_eq.symm,
    hst.rsp_eq.trans hsu.rsp_eq.symm⟩

/-- Settles O29: RESET leaves the state that INIT with the stored seed leaves, and the WRITEs then build up the message. -/
theorem resetEquivalence : Obligations.ResetEquivalence := by
  intro s cs he hv hcs
  have hreset : exec .reset s = .next (initBody s.seed s) := by
    rw [← resetBody_eq_initBody hv]
    exact exec_legal (check_reset_proceed_iff.mpr ⟨he, hv⟩)
  have hinit : exec (.init s.seed) s = .next (initBody s.seed s) := exec_legal (check_init_proceed_iff.mpr he)
  obtain ⟨t, ht, hwrote⟩ := execAll_writes hcs (s := initBody s.seed s) ⟨he, rfl, rfl⟩
  have hdigest := ((view_initBody s.seed s).wrote hwrote).digest_eq
  exact ⟨t, t, (execAll_cons hreset).trans ht, (execAll_cons hinit).trans ht, SameDefined.refl t, rfl, hdigest, hdigest⟩

/-- Settles O34: in a finalized session the check of a WRITE turns on the parameter alone. -/
theorem writeAfterFinalWhenAllowed : Obligations.WriteAfterFinalWhenAllowed := by
  intro c beat s hw he hv hd
  have hallowed : checkWith true (some c) s = .proceed := by simp [checkWith_some he, hv]
  have hrefused : checkWith false (some c) s = .seq := by simp [checkWith_some he, hv, hd, hw]
  refine ⟨runCommandWith_proceed hallowed, (writeBody_done ..).trans hd, ?_⟩
  rw [runWrite, runCommandWith_refused (by simp [hrefused]), hrefused, refuse_quiet, raiseFault_first he]
  · rfl
  · rintro ⟨⟩
    cases hw
  · rintro ⟨⟩
    cases hw

/-- Settles O36: FINAL and FINAL64 answer the digest of the registers, that of the session, and write no data register. -/
theorem finalAnswersMM3 : Obligations.FinalAnswersMM3 := by
  intro seed msg s hview he hv
  obtain ⟨hfinal, hfinal64, -⟩ := finalizeAnswersDigest s he hv
  rw [← hview.digest_eq]
  exact ⟨⟨_, hfinal, hview.congr ⟨rfl, rfl, rfl, rfl, rfl, rfl⟩, rfl⟩,
    ⟨_, hfinal64, hview.congr ⟨rfl, rfl, rfl, rfl, rfl, rfl⟩, rfl⟩⟩

end Sys2Proof.Certificates.Slice0
end

section
/-! PROOFS. How a step moves the session on (10_state.md R41), and FINAL and FINAL64 repeated (43_tail_finalizer.md
R161). -/

namespace Sys2Proof.Machine

variable {s t : State} {p : PortSample} {rest : List PortSample} {i f : Instr}
  {session : Option (Word × List Byte)}

/-! ### Operations that leave the defined data alone -/

theorem SameData.symm (h : SameData s t) : SameData t s :=
  ⟨h.seed_eq.symm, h.h1_eq.symm, h.h2_eq.symm, h.consumed_eq.symm, h.plen_eq.symm, h.pending_eq.symm⟩

theorem SameData.trans {u : State} (h : SameData s t) (h' : SameData t u) : SameData s u :=
  ⟨h.seed_eq.trans h'.seed_eq, h.h1_eq.trans h'.h1_eq, h.h2_eq.trans h'.h2_eq, h.consumed_eq.trans h'.consumed_eq,
    h.plen_eq.trans h'.plen_eq, h.pending_eq.trans h'.pending_eq⟩

/-- Operations that leave the data alone keep two states alike. -/
theorem SameData.map {s' t' : State} (h : SameData s t) (hs : SameData s s') (ht : SameData t t') : SameData s' t' :=
  hs.symm.trans (h.trans ht)

theorem sameData_refuse (s : State) (c : Option Instr) (v : Verdict) : SameData s (s.refuse c v) where
  seed_eq := (State.refuse_seed ..).symm
  h1_eq := (State.refuse_h1 ..).symm
  h2_eq := (State.refuse_h2 ..).symm
  consumed_eq := (State.refuse_consumed ..).symm
  plen_eq := (State.refuse_plen ..).symm
  pending_eq := pending_congr (State.refuse_plen ..).symm (State.refuse_pend ..).symm

theorem sameData_setPorts (s : State) (ports : List PortSample) : SameData s (s.setPorts ports) :=
  ⟨rfl, rfl, rfl, rfl, rfl, rfl⟩

theorem sameData_takeRsp (s : State) : SameData s s.takeRsp := ⟨rfl, rfl, rfl, rfl, rfl, rfl⟩

/-- What FINAL and FINAL64 share (43_tail_finalizer.md R158, R159). -/
theorem exists_bodyOf_finalize (hf : f = .final ∨ f = .final64) :
    ∃ kind, ∀ s, bodyOf f s = (s.setDone true).respond ⟨kind, false, answerData kind s⟩ := by
  rcases hf with rfl | rfl
  · exact ⟨.digest128, fun _ => rfl⟩
  · exact ⟨.digest64, fun _ => rfl⟩

theorem sameData_bodyOf_finalize (hf : f = .final ∨ f = .final64) (s : State) : SameData s (bodyOf f s) := by
  obtain ⟨kind, hbody⟩ := exists_bodyOf_finalize hf
  rw [hbody]
  exact ⟨rfl, rfl, rfl, rfl, rfl, rfl⟩

theorem answerData_congr (hd : SameData s t) (kind : RspKind) : answerData kind s = answerData kind t := by
  cases kind <;> rw [answerData, answerData, hd.digest_eq]

theorem exec_finalize (hf : f = .final ∨ f = .final64) (he : s.err = false) (hv : s.valid = true) :
    exec f s = .next (bodyOf f s) := by
  rcases hf with rfl | rfl
  · exact exec_legal (check_final_proceed_iff.mpr ⟨he, hv⟩)
  · exact exec_legal (check_final64_proceed_iff.mpr ⟨he, hv⟩)

/-! ### The session (10_state.md R41) -/

/-- Which session a state stands for is a matter of `VALID` and the defined data. -/
theorem SessionIs.congr (h : SessionIs session s) (hv : t.valid = s.valid) (hd : SameData s t) :
    SessionIs session t := by
  cases session with
  | none => exact hv.trans h
  | some seedMsg => exact ⟨hv.trans h.1, h.2.congr hd⟩

theorem SessionIs.setPorts (h : SessionIs session s) (ports : List PortSample) : SessionIs session (s.setPorts ports) :=
  h.congr rfl (sameData_setPorts s ports)

/-- A state with a session stands for some seed and message. -/
theorem SessionIs.exists_view (h : SessionIs session s) (hv : s.valid = true) :
    ∃ seed msg, session = some (seed, msg) ∧ View seed msg s := by
  cases session with
  | none => cases hv.symm.trans h
  | some seedMsg => exact ⟨seedMsg.1, seedMsg.2, rfl, h.2⟩

/-- The seed and the message determine the defined data. -/
theorem View.sameData {seed : Word} {msg : List Byte} (hs : View seed msg s) (ht : View seed msg t) : SameData s t := by
  obtain ⟨hh1, hh2⟩ := Prod.mk.inj (hs.acc_eq.trans ht.acc_eq.symm)
  exact ⟨hs.seed_eq.trans ht.seed_eq.symm, hh1, hh2, hs.consumed_eq.trans ht.consumed_eq.symm,
    BitVec.eq_of_toNat_eq (hs.plen_eq.trans ht.plen_eq.symm), hs.pending_eq.trans ht.pending_eq.symm⟩

/-- A command that executes moves the session on. -/
theorem SessionIs.bodyOf (h : SessionIs session s) (hc : check (some i) s = .proceed) :
    SessionIs (sessionAfterCommand i session) (bodyOf i s) := by
  cases i with
  | init seed => exact ⟨rfl, view_initBody seed s⟩
  | write beat | write16 beat =>
    have hv := valid_of_check_proceed hc rfl
    obtain ⟨seed, msg, rfl, hview⟩ := h.exists_view hv
    exact ⟨(writeBody_valid ..).trans hv, hview.wrote (wrote_writeBody beat s)⟩
  | final => exact h.congr rfl (sameData_bodyOf_finalize (.inl rfl) s)
  | final64 => exact h.congr rfl (sameData_bodyOf_finalize (.inr rfl) s)
  | reset =>
    have hv := valid_of_check_proceed hc rfl
    obtain ⟨seed, msg, rfl, hview⟩ := h.exists_view hv
    refine ⟨hv, ?_⟩
    rw [Machine.bodyOf, resetBody_eq_initBody hv, hview.seed_eq]
    exact view_initBody seed s

/-! ### The session named after each kind of step -/

theorem sessionAfterStep_nil (hp : s.ports = []) : sessionAfterStep s session = session := by
  simp only [sessionAfterStep, hp]

theorem sessionAfterStep_idle (hp : s.ports = p :: rest) (he : edgeOf p s = .idle) :
    sessionAfterStep s session = session := by
  simp only [sessionAfterStep, hp, he]

theorem sessionAfterStep_take (hp : s.ports = p :: rest) (he : edgeOf p s = .take) :
    sessionAfterStep s session = session := by
  simp only [sessionAfterStep, hp, he]

theorem sessionAfterStep_hardReset (hp : s.ports = p :: rest) (he : edgeOf p s = .reset) :
    sessionAfterStep s session = none := by
  simp only [sessionAfterStep, hp, he]

theorem sessionAfterStep_executed (hp : s.ports = p :: rest) (he : edgeOf p s = .accept p.word)
    (hd : decode p.word = some i) (hc : check (some i) s = .proceed) :
    sessionAfterStep s session = sessionAfterCommand i session := by
  simp only [sessionAfterStep, hp, he, hd, hc, if_true]

theorem sessionAfterStep_refused (hp : s.ports = p :: rest) (he : edgeOf p s = .accept p.word)
    (hc : check (decode p.word) s ≠ .proceed) : sessionAfterStep s session = session := by
  cases hd : decode p.word with
  | none => simp only [sessionAfterStep, hp, he, hd]
  | some i =>
    rw [hd] at hc
    simp only [sessionAfterStep, hp, he, hd, if_neg hc]

end Sys2Proof.Machine

namespace Sys2Proof.Certificates.Slice0

open Sys2Proof.Machine

/-- Settles O57, by the cases of a step: `sessionAfterStep` makes the same case distinction, and only a command that
executes touches the data. -/
theorem stepKeepsSessionView : Obligations.StepKeepsSessionView := by
  intro session s t hs h
  cases step_eq_iff.mp h with
  | silent hp =>
    rw [sessionAfterStep_nil hp]
    exact hs
  | idle hp he =>
    rw [sessionAfterStep_idle hp he]
    exact hs.setPorts _
  | hardReset hp he =>
    rw [sessionAfterStep_hardReset hp he]
    rfl
  | take hp he =>
    rw [sessionAfterStep_take hp he]
    exact (hs.setPorts _).congr rfl (sameData_takeRsp _)
  | executed hp he hd hc =>
    rw [sessionAfterStep_executed hp he hd hc]
    exact (hs.setPorts _).bodyOf hc
  | refused hp he hc =>
    rw [sessionAfterStep_refused hp he hc]
    exact (hs.setPorts _).congr (State.refuse_valid ..) (sameData_refuse ..)

/-- Settles O37: the digest reads no register that FINAL, FINAL64 or the host's taking the response writes. -/
theorem finalizeRepeats : Obligations.FinalizeRepeats := by
  intro s t f g he hv _ hf hg h
  obtain rfl : bodyOf f s = t := by injection (exec_finalize hf he hv).symm.trans h
  obtain ⟨kind, hfbody⟩ := exists_bodyOf_finalize hf
  obtain ⟨kind', hgbody⟩ := exists_bodyOf_finalize hg
  refine ⟨bodyOf g (bodyOf f s).takeRsp, bodyOf g s, exec_finalize hg ?_ ?_, exec_finalize hg he hv, ?_⟩
  · simpa [hfbody] using he
  · simpa [hfbody] using hv
  · have hdata : SameData s (bodyOf f s).takeRsp := (sameData_bodyOf_finalize hf s).trans (sameData_takeRsp _)
    refine ⟨?_, (hdata.trans (sameData_bodyOf_finalize hg _)).digest_eq.symm, ?_⟩
    · rw [hgbody, hgbody, State.respond_rsp, State.respond_rsp, answerData_congr hdata]
    · rw [hgbody, hfbody]
      simp [SameRegisters]

end Sys2Proof.Certificates.Slice0
end

section
/-! PROOFS. No step reads what the spec leaves undefined (10_state.md R23, R36; 43_tail_finalizer.md R154). -/

namespace Sys2Proof.Machine

variable {s t : State} {i f : Instr}

/-! ### Agreement on what is defined of the block itself -/

/-- Two states agree on everything defined but the host's samples. -/
structure SameBlock (s t : State) : Prop where
  valid_eq : s.valid = t.valid
  done_eq : s.done = t.done
  err_eq : s.err = t.err
  errcode_eq : s.errcode = t.errcode
  rsp_eq : s.rsp.map Response.shown = t.rsp.map Response.shown
  data_eq : s.valid = true → SameData s t

theorem sameDefined_iff : SameDefined s t ↔ s.ports = t.ports ∧ SameBlock s t :=
  ⟨fun ⟨hp, hv, hd, he, hc, hr, hdata⟩ => ⟨hp, hv, hd, he, hc, hr, hdata⟩,
    fun ⟨hp, hv, hd, he, hc, hr, hdata⟩ => ⟨hp, hv, hd, he, hc, hr, hdata⟩⟩

theorem SameBlock.refl (s : State) : SameBlock s s := ⟨rfl, rfl, rfl, rfl, rfl, fun _ => SameData.refl s⟩

theorem SameBlock.setPorts (h : SameBlock s t) (ports ports' : List PortSample) :
    SameBlock (s.setPorts ports) (t.setPorts ports') :=
  ⟨h.valid_eq, h.done_eq, h.err_eq, h.errcode_eq, h.rsp_eq,
    fun hv => (h.data_eq hv).map (sameData_setPorts ..) (sameData_setPorts ..)⟩

theorem SameBlock.takeRsp (h : SameBlock s t) : SameBlock s.takeRsp t.takeRsp :=
  ⟨h.valid_eq, h.done_eq, h.err_eq, h.errcode_eq, rfl,
    fun hv => (h.data_eq hv).map (sameData_takeRsp s) (sameData_takeRsp t)⟩

/-- After a hardware reset nothing is defined but the flags and the empty slot. -/
theorem sameBlock_hardReset (s t : State) : SameBlock s.hardReset t.hardReset := ⟨rfl, rfl, rfl, rfl, rfl, nofun⟩

theorem SameBlock.check_eq (h : SameBlock s t) (c : Option Instr) : check c s = check c t := by
  cases c with
  | some i => exact checkWith_congr rfl rfl h.err_eq h.valid_eq h.done_eq
  | none =>
    cases he : s.err with
    | true => rw [check, check, checkWith_of_err he, checkWith_of_err (h.err_eq ▸ he)]
    | false => rw [check, check, checkWith_none he, checkWith_none (h.err_eq ▸ he)]

/-- The free data of an error response is not shown (60_exceptions.md R185). -/
theorem refuse_shown (h : s.rsp.map Response.shown = t.rsp.map Response.shown) (c : Option Instr) (v : Verdict) :
    (s.refuse c v).rsp.map Response.shown = (t.refuse c v).rsp.map Response.shown := by
  by_cases hf : c = some .final
  · rw [hf, State.refuse_rsp_final, State.refuse_rsp_final]
    rfl
  by_cases hf64 : c = some .final64
  · rw [hf64, State.refuse_rsp_final64, State.refuse_rsp_final64]
    rfl
  rwa [refuse_quiet hf hf64, refuse_quiet hf hf64, State.raiseFault_rsp, State.raiseFault_rsp]

theorem SameBlock.refuse (h : SameBlock s t) (c : Option Instr) (v : Verdict) :
    SameBlock (s.refuse c v) (t.refuse c v) where
  valid_eq := by rw [State.refuse_valid, State.refuse_valid, h.valid_eq]
  done_eq := by rw [State.refuse_done, State.refuse_done, h.done_eq]
  err_eq := by rw [State.refuse_err, State.refuse_err]
  errcode_eq := by rw [State.refuse_errcode, State.refuse_errcode, h.err_eq, h.errcode_eq]
  rsp_eq := refuse_shown h.rsp_eq c v
  data_eq hv := (h.data_eq ((State.refuse_valid ..).symm.trans hv)).map (sameData_refuse s c v) (sameData_refuse t c v)

/-- The seed and the empty message determine the data. -/
theorem SameBlock.initBody (h : SameBlock s t) (seed : Word) : SameBlock (initBody seed s) (initBody seed t) where
  valid_eq := rfl
  done_eq := rfl
  err_eq := h.err_eq
  errcode_eq := h.errcode_eq
  rsp_eq := h.rsp_eq
  data_eq _ := (view_initBody seed s).sameData (view_initBody seed t)

theorem SameBlock.writeBody (h : SameBlock s t) (bytes : List Byte) :
    SameBlock (writeBody bytes s) (writeBody bytes t) where
  valid_eq := by rw [writeBody_valid, writeBody_valid, h.valid_eq]
  done_eq := by rw [writeBody_done, writeBody_done, h.done_eq]
  err_eq := by rw [writeBody_err, writeBody_err, h.err_eq]
  errcode_eq := by rw [writeBody_errcode, writeBody_errcode, h.errcode_eq]
  rsp_eq := by rw [writeBody_rsp, writeBody_rsp, h.rsp_eq]
  data_eq hv := Wrote.sameData (h.data_eq ((writeBody_valid ..).symm.trans hv)) (wrote_writeBody bytes s)
    (wrote_writeBody bytes t)

/-- FINAL and FINAL64 in a session answer from the defined data. -/
theorem SameBlock.finalize (h : SameBlock s t) (hv : s.valid = true) (hf : f = .final ∨ f = .final64) :
    SameBlock (bodyOf f s) (bodyOf f t) := by
  have hdata := h.data_eq hv
  obtain ⟨kind, hbody⟩ := exists_bodyOf_finalize hf
  refine ⟨?_, ?_, ?_, ?_, ?_, fun _ => hdata.map (sameData_bodyOf_finalize hf s) (sameData_bodyOf_finalize hf t)⟩ <;>
    rw [hbody, hbody]
  · simpa using h.valid_eq
  · simp
  · simpa using h.err_eq
  · simpa using h.errcode_eq
  · rw [State.respond_rsp, State.respond_rsp, answerData_congr hdata]

/-- A command that executes reads nothing undefined. -/
theorem SameBlock.bodyOf (h : SameBlock s t) (hc : check (some i) s = .proceed) :
    SameBlock (bodyOf i s) (bodyOf i t) := by
  cases i with
  | init seed => exact h.initBody seed
  | write beat | write16 beat => exact h.writeBody beat
  | final => exact h.finalize (valid_of_check_proceed hc rfl) (.inl rfl)
  | final64 => exact h.finalize (valid_of_check_proceed hc rfl) (.inr rfl)
  | reset =>
    have hv := valid_of_check_proceed hc rfl
    rw [Machine.bodyOf, resetBody_eq_initBody hv, resetBody_eq_initBody (h.valid_eq ▸ hv), (h.data_eq hv).seed_eq]
    exact h.initBody t.seed

/-- No command reads or writes the host's samples. -/
theorem bodyOf_ports (i : Instr) (s : State) : (bodyOf i s).ports = s.ports := by
  cases i with
  | write beat | write16 beat => exact writeBody_ports ..
  | init _ | final | final64 | reset => rfl

/-- The ports show whether `RSP` is empty alike, so the edge transfers the same. -/
theorem SameBlock.edgeOf_eq (h : SameBlock s t) (p : PortSample) : edgeOf p s = edgeOf p t :=
  edgeOf_congr (by simpa only [Option.isSome_map] using congrArg Option.isSome h.rsp_eq)

/-- Two states that agree make the same kind of step and then agree again. -/
theorem SameDefined.step {s' : State} (h : SameDefined s t) (hs : StepKind s s') :
    ∃ t', StepKind t t' ∧ SameDefined s' t' := by
  obtain ⟨hports, hblock⟩ := sameDefined_iff.mp h
  cases hs with
  | silent hp => exact ⟨t, .silent (hports ▸ hp), h⟩
  | @idle p rest hp he =>
    exact ⟨_, .idle (hports ▸ hp) (hblock.edgeOf_eq p ▸ he), sameDefined_iff.mpr ⟨rfl, hblock.setPorts rest rest⟩⟩
  | @hardReset p rest hp he =>
    exact ⟨_, .hardReset (hports ▸ hp) (hblock.edgeOf_eq p ▸ he),
      sameDefined_iff.mpr ⟨rfl, sameBlock_hardReset _ _⟩⟩
  | @take p rest hp he =>
    exact ⟨_, .take (hports ▸ hp) (hblock.edgeOf_eq p ▸ he),
      sameDefined_iff.mpr ⟨rfl, (hblock.setPorts rest rest).takeRsp⟩⟩
  | @executed p rest i hp he hd hc =>
    refine ⟨_, .executed (hports ▸ hp) (hblock.edgeOf_eq p ▸ he) hd (hblock.check_eq _ ▸ hc),
      sameDefined_iff.mpr ⟨?_, ?_⟩⟩
    · rw [bodyOf_ports, bodyOf_ports]
      rfl
    · exact (hblock.setPorts rest rest).bodyOf hc
  | @refused p rest hp he hc =>
    refine ⟨_, .refused (hports ▸ hp) (hblock.edgeOf_eq p ▸ he) (hblock.check_eq _ ▸ hc),
      sameDefined_iff.mpr ⟨?_, ?_⟩⟩
    · rw [State.refuse_ports, State.refuse_ports]
      rfl
    · rw [← hblock.check_eq]
      exact (hblock.setPorts rest rest).refuse _ _

end Sys2Proof.Machine

namespace Sys2Proof.Certificates.Slice0

open Sys2Proof.Machine

/-- Settles O58: the edge and the check read what is defined, and each operation makes what it writes out of that. -/
theorem undefinedValuesAreNeverRead : Obligations.UndefinedValuesAreNeverRead := by
  intro s t h
  obtain ⟨s', hs⟩ := exists_stepKind s
  obtain ⟨t', ht, h'⟩ := h.step hs
  exact ⟨s', t', hs.step_eq, ht.step_eq, h'⟩

end Sys2Proof.Certificates.Slice0
end

section
/-! PROOFS. Rules about the steps of a run: it ends for good, an offered word is the next one accepted, and INIT first avoids
fault 2 (70_reset_and_hazards.md R203, R209, R210). -/

namespace Sys2Proof.Machine

variable {s t : State} {n : Nat} {p : PortSample} {rest : List PortSample} {cw : CmdWord} {i : Instr}

theorem setPorts_of_ports_eq {ports : List PortSample} (h : s.ports = ports) : s.setPorts ports = s := by
  subst h
  rfl

/-- A step consumes one sample. -/
theorem StepKind.ports_eq (h : StepKind s t) : t.ports = s.ports.tail := by
  cases h with
  | silent hp => rw [hp]; rfl
  | idle hp | hardReset hp | take hp => rw [hp]; rfl
  | executed hp => rw [bodyOf_ports, hp]; rfl
  | refused hp => rw [State.refuse_ports, hp]; rfl

theorem acceptedNow_of_accept (hp : s.ports = p :: rest) (he : edgeOf p s = .accept cw) : s.acceptedNow = some cw := by
  simp only [State.acceptedNow, hp, he]

/-- A command that executes records no fault. -/
theorem bodyOf_errcode (i : Instr) (s : State) : (bodyOf i s).errcode = s.errcode := by
  cases i with
  | write beat | write16 beat => exact writeBody_errcode ..
  | init _ | final | final64 | reset => rfl

/-- INIT is refused in a faulted block alone. -/
theorem check_proceed_of_isInit (hi : i.isInit = true) (he : s.err = false) : check (some i) s = .proceed := by
  cases i with
  | init seed => exact check_init_proceed_iff.mpr he
  | write _ | write16 _ | final | final64 | reset => exact nomatch hi

/-- Code 2 is recorded only when something else than INIT is accepted with `VALID = 0`. -/
theorem StepKind.errcode_ne_two (h : StepKind s t) (hs : s.errcode ≠ 2)
    (hinit : s.valid = false → ∀ cw, s.acceptedNow = some cw → ∃ i, decode cw = some i ∧ i.isInit = true) :
    t.errcode ≠ 2 := by
  cases h with
  | silent | idle | take => exact hs
  | hardReset => exact nofun
  | executed =>
    rw [bodyOf_errcode]
    exact hs
  | refused hp he hc =>
    rw [State.refuse_errcode]
    split_ifs with herr
    · exact hs
    have herr : s.err = false := Bool.eq_false_iff.mpr herr
    rcases check_cases_of_first_fault herr hc with hv | ⟨-, hvalid⟩ | ⟨hv, -⟩
    · rw [hv]
      exact nofun
    · obtain ⟨i, hd, hi⟩ := hinit hvalid _ (acceptedNow_of_accept hp he)
      rw [hd, check_proceed_of_isInit hi herr] at hc
      exact absurd rfl hc
    · rw [hv]
      exact nofun

end Sys2Proof.Machine

namespace Sys2Proof.Certificates.Slice0

open Sys2Proof.Machine

/-- Settles O42, by the cases of a step: with nothing offered and an empty slot it is idle or a hardware reset. -/
theorem endedRunStaysEnded : Obligations.EndedRunStaysEnded := by
  intro s t ⟨hquiet, hs⟩ h
  have hkind := step_eq_iff.mp h
  have hquiet' : ∀ p ∈ t.ports, p.cmdValid = false := fun p hp =>
    hquiet p (List.mem_of_mem_tail (hkind.ports_eq ▸ hp))
  have hnever {p rest} (hp : s.ports = p :: rest) : edgeOf p s ≠ .accept p.word := fun he => by
    obtain ⟨-, hv, -, -⟩ := edgeOf_eq_accept_iff.mp he
    cases hv.symm.trans (hquiet p (by simp [hp]))
  have hdone (ht : t.rsp = none) : Ended t ∧ produced s t = none :=
    ⟨⟨hquiet', ht⟩, by rw [produced, hs, ht]; rfl⟩
  cases hkind with
  | silent hp => exact ⟨(hdone hs).1, (hdone hs).2, fun _ => by rw [hp]; exact (setPorts_of_ports_eq hp).symm⟩
  | idle hp => exact ⟨(hdone hs).1, (hdone hs).2, fun _ => by rw [hp]; rfl⟩
  | hardReset hp he =>
    refine ⟨(hdone rfl).1, (hdone rfl).2, fun hrst => ?_⟩
    cases (edgeOf_eq_reset_iff.mp he).symm.trans (hrst _ (by simp [hp]))
  | take _ he => exact absurd hs (edgeOf_eq_take_iff.mp he).2.2
  | executed hp he => exact absurd he (hnever hp)
  | refused hp he => exact absurd he (hnever hp)

/-- Settles O39, by induction on the steps: the word is accepted now, or the host offers it again at the next edge. -/
theorem offeredWordIsTheOneAccepted : Obligations.OfferedWordIsTheOneAccepted := by
  intro n
  induction n with
  | zero => exact fun _ _ _ _ _ _ _ h => nomatch h
  | succ n ih =>
    intro s p rest cw hallowed hp hv hhead
    obtain ⟨t, hkind⟩ := exists_stepKind s
    obtain ⟨hholds, hallowed'⟩ := (hostAllowed_succ hkind.step_eq).mp hallowed
    rw [accepted_succ hkind.step_eq] at hhead
    cases ha : s.acceptedNow with
    | some cw' =>
      obtain ⟨p', rest', hp', -, -, -, hword⟩ := acceptedNow_eq_some ha
      obtain ⟨rfl, -⟩ := List.cons.inj (hp.symm.trans hp')
      rw [ha] at hhead
      exact (Option.some.inj hhead).symm.trans hword.symm
    | none =>
      obtain ⟨q, rest', hrest, hqv, hqword⟩ := holdsOffer_next hholds hp hv ha
      rw [ha] at hhead
      have hports : t.ports = q :: rest' := by rw [hkind.ports_eq, hp, hrest]; rfl
      exact (ih t q rest' cw hallowed' hports hqv hhead).trans hqword

/-- Settles O43, by induction on the steps: none of them records code 2. -/
theorem initFirstAvoidsUninit : Obligations.InitFirstAvoidsUninit := by
  intro n
  induction n with
  | zero =>
    rintro s _ hs - - ⟨⟩
    exact hs
  | succ n ih =>
    intro s t hs hallowed hfirst hrun
    obtain ⟨u, hkind⟩ := exists_stepKind s
    obtain ⟨hfirst', hinit⟩ := initFirst_succ hkind.step_eq hfirst
    obtain ⟨-, hallowed'⟩ := (hostAllowed_succ hkind.step_eq).mp hallowed
    exact ih u t (hkind.errcode_ne_two hs hinit) hallowed' hfirst' (run_succ hkind.step_eq ▸ hrun)

end Sys2Proof.Certificates.Slice0
end

section
/-! PROOFS. A run executes its accepted words one after the other, in order (30_encoding.md R71, 20_memory.md R59). -/

namespace Sys2Proof.Machine

variable {s t u : State} {p : PortSample} {rest : List PortSample} {cw : CmdWord} {i : Instr} {ws : List CmdWord}

/-! ### The words one after the other -/

theorem edgeOf_offer (hs : s.rsp = none) (cw : CmdWord) : edgeOf (offer cw) s = .accept cw :=
  edgeOf_eq_accept_iff.mpr ⟨rfl, rfl, hs, (offer_word cw).symm⟩

/-- The state in which a word executes when it is offered alone. -/
def State.alone (s : State) : State := (s.setPorts []).takeRsp

theorem stepKind_offerWord_executed (hd : decode cw = some i) (hc : check (some i) s = .proceed) :
    StepKind ((s.setPorts []).offerWord cw) (bodyOf i s.alone) :=
  .executed (p := offer cw) (rest := []) rfl ((edgeOf_offer rfl cw).trans (by rw [offer_word])) (by rwa [offer_word]) hc

theorem stepKind_offerWord_refused (hc : check (decode cw) s ≠ .proceed) :
    StepKind ((s.setPorts []).offerWord cw) (s.alone.refuse (decode cw) (check (decode cw) s)) := by
  have h := StepKind.refused (s := (s.setPorts []).offerWord cw) (p := offer cw) (rest := []) rfl
    ((edgeOf_offer rfl cw).trans (by rw [offer_word])) (by rwa [offer_word])
  rwa [offer_word] at h

theorem runWords_executed (hd : decode cw = some i) (hc : check (some i) s = .proceed) :
    runWords (cw :: ws) s =
      ((bodyOf i s.alone).rsp.toList ++ (runWords ws (bodyOf i s.alone)).1, (runWords ws (bodyOf i s.alone)).2) :=
  runWords_cons (stepKind_offerWord_executed hd hc).step_eq

/-- Two states alike but for the slot, of which the first has it empty, execute a word alike. -/
theorem SameBlock.alone (h : SameBlock s.takeRsp u.takeRsp) (hs : s.rsp = none) (rest : List PortSample) :
    SameBlock (s.setPorts rest) u.alone := by
  have hempty : (s.setPorts rest).takeRsp = s.setPorts rest := by
    rw [State.takeRsp, State.setPorts, ← hs]
  exact hempty ▸ h.setPorts rest []

/-- A word accepted in a run does what it does alone. -/
theorem StepKind.offerWord (hkind : StepKind s t) (hp : s.ports = p :: rest) (he : edgeOf p s = .accept cw)
    (h : SameBlock s.takeRsp u.takeRsp) :
    ∃ u', step ((u.setPorts []).offerWord cw) = .next u' ∧ SameBlock t u' := by
  obtain ⟨-, -, hs, rfl⟩ := edgeOf_eq_accept_iff.mp he
  have hcheck (c) : check c s = check c u := h.check_eq c
  cases hkind with
  | silent hp' => cases hp.symm.trans hp'
  | idle hp' he' | hardReset hp' he' | take hp' he' =>
    obtain ⟨rfl, -⟩ := List.cons.inj (hp.symm.trans hp')
    cases he.symm.trans he'
  | @executed p' rest' i hp' he' hd hc =>
    obtain ⟨rfl, rfl⟩ := List.cons.inj (hp.symm.trans hp')
    exact ⟨_, (stepKind_offerWord_executed hd (hcheck _ ▸ hc)).step_eq, (h.alone hs rest).bodyOf hc⟩
  | refused hp' he' hc =>
    obtain ⟨rfl, rfl⟩ := List.cons.inj (hp.symm.trans hp')
    rw [hcheck] at hc ⊢
    exact ⟨_, (stepKind_offerWord_refused hc).step_eq, (h.alone hs rest).refuse _ _⟩

/-- A step without `rst` that accepts no word changes nothing but the samples and the slot, and produces nothing. -/
theorem StepKind.unaccepted (hkind : StepKind s t) (hrst : ∀ p rest, s.ports = p :: rest → p.rst = false)
    (ha : s.acceptedNow = none) : produced s t = none ∧ t.takeRsp = s.takeRsp.setPorts t.ports := by
  cases hkind with
  | silent => exact ⟨by cases hs : s.rsp <;> simp [produced, hs], rfl⟩
  | idle => exact ⟨by cases hs : s.rsp <;> simp [produced, hs], rfl⟩
  | hardReset hp he => cases (edgeOf_eq_reset_iff.mp he).symm.trans (hrst _ _ hp)
  | take => exact ⟨by simp [produced], rfl⟩
  | executed hp he => cases ha.symm.trans (acceptedNow_of_accept hp he)
  | refused hp he => cases ha.symm.trans (acceptedNow_of_accept hp he)

/-- However a run is paced, it leaves what its accepted words leave one after the other, from any state alike but for the
samples and the slot. -/
theorem run_eq_runWords (n : Nat) (hrst : ∀ p ∈ s.ports.take n, p.rst = false) (h : SameBlock s.takeRsp u.takeRsp) :
    ∃ t, Host.Core.run Sys2Proof.core n s = .next t ∧
      (responses n s).map Response.shown = (runWords (accepted n s) u).1.map Response.shown ∧
      SameBlock t.takeRsp (runWords (accepted n s) u).2.takeRsp := by
  induction n generalizing s u with
  | zero => exact ⟨s, rfl, rfl, h⟩
  | succ n ih =>
    obtain ⟨s', hkind⟩ := exists_stepKind s
    have hrst' : ∀ p ∈ s'.ports.take n, p.rst = false := fun p hp =>
      
      hrst p (List.mem_of_mem_tail (by
        rwa [← List.drop_one, List.drop_take, Nat.add_sub_cancel, List.drop_one, ← hkind.ports_eq]))
    rw [run_succ hkind.step_eq, responses_succ hkind.step_eq, accepted_succ hkind.step_eq]
    cases ha : s.acceptedNow with
    | none =>
      obtain ⟨hproduced, hkept⟩ := hkind.unaccepted (fun p rest hp => hrst p (by simp [hp])) ha
      rw [hproduced]
      exact ih hrst' (hkept ▸ h.setPorts _ u.ports)
    | some cw =>
      obtain ⟨p, rest, hp, hr, hv, hs, hword⟩ := acceptedNow_eq_some ha
      obtain ⟨u', hu, hblock⟩ := hkind.offerWord hp (edgeOf_eq_accept_iff.mpr ⟨hr, hv, hs, hword.symm⟩) h
      obtain ⟨t, hrun, hresp, hlast⟩ := ih hrst' hblock.takeRsp
      refine ⟨t, hrun, ?_, ?_⟩
      · have hfirst : (produced s s').toList.map Response.shown = u'.rsp.toList.map Response.shown := by
          rw [produced, hs, ← Option.toList_map, ← Option.toList_map]
          exact congrArg Option.toList hblock.rsp_eq
        rw [Option.toList_some, List.singleton_append, runWords_cons hu, List.map_append, List.map_append, hfirst, hresp]
      · rw [Option.toList_some, List.singleton_append, runWords_cons hu]
        exact hlast

end Sys2Proof.Machine

namespace Sys2Proof.Certificates.Slice0

open Sys2Proof.Machine

/-- Settles O40: `run_eq_runWords` from one state twice. -/
theorem runExecutesAcceptedWordsInOrder : Obligations.RunExecutesAcceptedWordsInOrder := by
  intro n s _ hrst
  obtain ⟨t, hrun, hresp, hlast⟩ := run_eq_runWords n hrst (SameBlock.refl s.takeRsp)
  exact ⟨t, hrun, hresp, sameDefined_iff.mpr ⟨rfl, hlast.setPorts [] []⟩⟩

end Sys2Proof.Certificates.Slice0
end

section
/-! PROOFS. The observation of a run that hashes some bytes is their digest (70_reset_and_hazards.md R210, 00_scope.md
R12). -/

namespace Sys2Proof.Machine

open Sys2Proof.Certificates.Slice0 (AllWrites WriteReady)

variable {s t u : State} {n : Nat} {p : PortSample} {rest : List PortSample} {cw : CmdWord} {i : Instr}
  {ws : List CmdWord} {cs : List Instr} {seed : Word} {msg : List Byte}

/-! ### INIT, WRITEs and FINAL one after the other (43_tail_finalizer.md R162) -/

/-- The flags of a session that FINAL has finalized without a fault. -/
abbrev Finalized (s : State) : Prop := s.valid = true ∧ s.done = true ∧ s.err = false ∧ s.errcode = 0

theorem Finalized.status_eq (h : Finalized s) : s.status = 0b00011 := by
  obtain ⟨hv, hd, he, hc⟩ := h
  rw [State.status, hv, hd, he, hc]
  rfl

/-- The one response of a hash. -/
def digestResponse (seed : Word) (msg : List Byte) : Response :=
  ⟨.digest128, false, (mm3 seed msg).1 ++ (mm3 seed msg).2⟩

theorem sameData_alone (s : State) : SameData s s.alone := ⟨rfl, rfl, rfl, rfl, rfl, rfl⟩

theorem runWords_final (hview : View seed msg s) (he : s.err = false) (hv : s.valid = true) (hcode : s.errcode = 0)
    (hd : decode cw = some .final) :
    (runWords [cw] s).1 = [digestResponse seed msg] ∧ Finalized (runWords [cw] s).2 := by
  have hdigest := (hview.congr (sameData_alone s)).digest_eq
  rw [runWords_executed hd (check_final_proceed_iff.mpr ⟨he, hv⟩), bodyOf, finalBody_eq, hdigest]
  exact ⟨rfl, hv, rfl, he, hcode⟩

/-- From an open session: WRITEs build up the message, and FINAL answers its digest. -/
theorem runWords_writes_final (hview : View seed msg s) (hr : WriteReady s) (hcode : s.errcode = 0) (hcs : AllWrites cs)
    (hws : ws.map decode = (cs ++ [Instr.final]).map some) :
    (runWords ws s).1 = [digestResponse seed (msg ++ cs.flatMap bytesOf)] ∧ Finalized (runWords ws s).2 := by
  induction cs generalizing s msg ws with
  | nil =>
    obtain ⟨w, rfl, hd⟩ := List.map_eq_singleton_iff.mp hws
    rw [List.flatMap_nil, List.append_nil]
    exact runWords_final hview hr.1 hr.2.1 hcode hd
  | cons c cs ih =>
    obtain ⟨⟨hw, -⟩, hcs'⟩ := List.forall_mem_cons.mp hcs
    obtain ⟨w, ws', rfl, hd, hws'⟩ := List.map_eq_cons_iff.mp hws
    have hwrote := wrote_writeBody (bytesOf c) s.alone
    have hnext := ih ((hview.congr (sameData_alone s)).wrote hwrote) (hwrote.ready hr)
      (hwrote.errcode_eq.trans hcode) hcs' hws'
    rw [runWords_executed hd (check_proceed_of_writeReady hr), bodyOf_of_isWrite hw, hwrote.rsp_eq, List.flatMap_cons,
      ← List.append_assoc]
    exact hnext

/-- From any block without a fault: INIT opens the session. -/
theorem runWords_hash (he : s.err = false) (hcode : s.errcode = 0) (hcs : AllWrites cs)
    (hws : ws.map decode = (.init seed :: (cs ++ [Instr.final])).map some) :
    (runWords ws s).1 = [digestResponse seed (cs.flatMap bytesOf)] ∧ Finalized (runWords ws s).2 := by
  obtain ⟨w, ws', rfl, hd, hws'⟩ := List.map_eq_cons_iff.mp hws
  have hempty : (initBody seed s.alone).rsp = none := rfl
  have hnext := runWords_writes_final (view_initBody seed s.alone) ⟨he, rfl, rfl⟩ hcode hcs hws'
  rw [runWords_executed hd (check_init_proceed_iff.mpr he), bodyOf, hempty]
  exact hnext

/-- What is observed of steps whose accepted words are those of a hash. -/
theorem observe_hash (he : s.err = false) (hcode : s.errcode = 0) (hrst : ∀ p ∈ s.ports.take n, p.rst = false)
    (hcs : AllWrites cs) (hws : (accepted n s).map decode = (.init seed :: (cs ++ [Instr.final])).map some)
    (hrun : Host.Core.run Sys2Proof.core n s = .next t) :
    (responses n s).map Response.shown = [(digestResponse seed (cs.flatMap bytesOf)).shown] ∧ Finalized t := by
  obtain ⟨t', hrun', hresp, hlast⟩ := run_eq_runWords n hrst (SameBlock.refl _)
  obtain rfl : t' = t := by injection hrun'.symm.trans hrun
  obtain ⟨hdigest, hv, hd, he', hcode'⟩ := runWords_hash he hcode hcs hws
  rw [hresp, hdigest]
  exact ⟨rfl, hlast.valid_eq.trans hv, hlast.done_eq.trans hd, hlast.err_eq.trans he', hlast.errcode_eq.trans hcode'⟩

/-! ### A host that offers word after word -/

/-- The `n` steps from `s` lead to `t`, the host keeps to R209 in them and gets the words `ws` accepted. -/
def Serves (ws : List CmdWord) (n : Nat) (s t : State) : Prop :=
  Host.Core.run Sys2Proof.core n s = .next t ∧ hostAllowed n s = true ∧ accepted n s = ws

theorem Serves.zero (s : State) : Serves [] 0 s s := ⟨rfl, rfl, rfl⟩

theorem Serves.succ (hkind : StepKind s u) (hholds : s.holdsOffer = true) (h : Serves ws n u t) :
    Serves (s.acceptedNow.toList ++ ws) (n + 1) s t := by
  obtain ⟨hrun, hallowed, haccepted⟩ := h
  exact ⟨(run_succ hkind.step_eq).trans hrun, (hostAllowed_succ hkind.step_eq).mpr ⟨hholds, hallowed⟩,
    (accepted_succ hkind.step_eq).trans (congrArg _ haccepted)⟩

/-- A host whose word is accepted at once has nothing to hold. -/
theorem holdsOffer_of_accepted (hp : s.ports = p :: rest) (ha : s.acceptedNow = some cw) : s.holdsOffer = true := by
  simp [State.holdsOffer, hp, ha]

/-- An offered command is accepted while `RSP` is empty. -/
theorem Serves.offer (hs : s.rsp = none) (hp : s.ports = Machine.offer cw :: rest) (hkind : StepKind s u)
    (h : Serves ws n u t) : Serves (cw :: ws) (n + 1) s t := by
  have ha := acceptedNow_of_accept hp (edgeOf_offer hs cw)
  have hserves := h.succ hkind (holdsOffer_of_accepted hp ha)
  rwa [ha] at hserves

/-- What the step executes when a well-formed command is offered. -/
theorem exec_of_offer (hs : s.rsp = none) (hp : s.ports = offer (encode i) :: rest) (hwf : i.wf = true)
    (hkind : StepKind s u) : exec i (s.setPorts rest) = .next u :=
  (step_of_accept_command hp (edgeOf_offer hs _) (decode_encode hwf)).symm.trans hkind.step_eq

/-- The host takes the response of FINAL after any commands that produce none. -/
theorem serves_then_final (hs : s.rsp = none) (hcs : ∀ c ∈ cs, c.wf = true ∧ c ≠ .final ∧ c ≠ .final64)
    (hp : s.ports = (cs ++ [Instr.final]).map (fun i => offer (encode i)) ++ [takeSample]) :
    ∃ t, Serves ((cs ++ [Instr.final]).map encode) (cs.length + 2) s t ∧ t.ports = [] ∧ t.rsp = none := by
  obtain ⟨u, hkind⟩ := exists_stepKind s
  have hports := hkind.ports_eq
  rw [hp] at hports
  induction cs generalizing s u with
  | nil =>
    obtain ⟨r, hr⟩ : ∃ r, u.rsp = some r := ⟨_, exec_final_rsp (exec_of_offer hs hp rfl hkind)⟩
    have htake : StepKind u (u.setPorts []).takeRsp :=
      .take hports (edgeOf_eq_take_iff.mpr ⟨rfl, rfl, by simp [hr]⟩)
    have hholds : u.holdsOffer = true := by simp [State.holdsOffer, hports, takeSample]
    have hnone : u.acceptedNow = none := by simp [acceptedNow_cons hports, takeSample]
    have hserves := (Serves.zero _).succ htake hholds
    rw [hnone] at hserves
    exact ⟨_, hserves.offer hs hp hkind, rfl, rfl⟩
  | cons c cs ih =>
    obtain ⟨⟨hwf, hfinal, hfinal64⟩, hcs'⟩ := List.forall_mem_cons.mp hcs
    have hu : u.rsp = none := (exec_rsp_of_not_finalize (exec_of_offer hs hp hwf hkind) hfinal hfinal64).trans hs
    obtain ⟨u', hkind'⟩ := exists_stepKind u
    obtain ⟨t, hserves, ht⟩ := ih hu hcs' hports u' hkind' (by rw [hkind'.ports_eq, hports]; rfl)
    exact ⟨t, hserves.offer hs hp hkind, ht⟩

theorem rst_eq_false_of_mem_offers (cs : List Instr) :
    ∀ p ∈ cs.map (fun i => offer (encode i)) ++ [takeSample], p.rst = false := by
  refine List.forall_mem_append.mpr ⟨fun p hp => ?_, List.forall_mem_singleton.mpr rfl⟩
  obtain ⟨i, -, rfl⟩ := List.mem_map.mp hp
  rfl

theorem map_decode_encode (h : ∀ c ∈ cs, c.wf = true) : (cs.map encode).map decode = cs.map some := by
  rw [List.map_map]
  exact List.map_congr_left fun c hc => decode_encode (h c hc)

theorem ne_final_of_isWrite (hw : i.isWrite = true) : i ≠ .final ∧ i ≠ .final64 := by
  constructor <;> rintro rfl <;> cases hw

end Sys2Proof.Machine

namespace Sys2Proof.Certificates.Slice0

open Sys2Proof.Machine

/-- Settles O41: after the reset the steps execute INIT, the WRITEs and FINAL. -/
theorem runObservesDigest : Obligations.RunObservesDigest := by
  rintro n s t seed cs ⟨hpos, hstart, -⟩ hrst hcs hws hrun hended
  obtain ⟨n, rfl⟩ := Nat.exists_eq_succ_of_ne_zero hpos.ne'
  rcases hp : s.ports with _ | ⟨p, rest⟩
  · simp [State.startsWithReset, hp] at hstart
  have hr : p.rst = true := by simpa [State.startsWithReset, hp] using hstart
  have hstep := step_of_rst hp hr
  have hnone : s.acceptedNow = none := by simp [acceptedNow_cons hp, hr]
  rw [hp, List.take_succ_cons, List.tail_cons] at hrst
  rw [accepted_succ hstep, hnone] at hws
  obtain ⟨hresp, hfin⟩ := observe_hash rfl rfl hrst hcs hws ((run_succ hstep).symm.trans hrun)
  refine ⟨⟨hended, hfin.2.2.1⟩, ?_⟩
  have hproduced : produced s (s.setPorts rest).hardReset = none := by simp [produced]
  rw [observe_of_run hrun, responses_succ hstep, hproduced, hfin.status_eq, Option.toList_none, List.nil_append, hresp]
  rfl

/-- Settles O38: each command is accepted at the edge that offers it, and the response of FINAL is then taken. -/
theorem hashOfAnyCutting : Obligations.HashOfAnyCutting := by
  intro s seed cs hinv he hs hcs hp
  have hquiet : ∀ c ∈ Instr.init seed :: cs, c.wf = true ∧ c ≠ .final ∧ c ≠ .final64 :=
    List.forall_mem_cons.mpr ⟨⟨rfl, nofun, nofun⟩, fun c hc => ⟨(hcs c hc).2, ne_final_of_isWrite (hcs c hc).1⟩⟩
  obtain ⟨t, ⟨hrun, hallowed, haccepted⟩, hports, ht⟩ := serves_then_final hs hquiet hp
  have hrst : ∀ p ∈ s.ports, p.rst = false := hp ▸ rst_eq_false_of_mem_offers _
  have hwf : ∀ c ∈ Instr.init seed :: (cs ++ [Instr.final]), c.wf = true :=
    List.forall_mem_append.mpr ⟨fun c hc => (hquiet c hc).1, List.forall_mem_singleton.mpr rfl⟩
  obtain ⟨-, hcode, -⟩ := hinv
  obtain ⟨hresp, hfin⟩ := observe_hash he (hcode.mpr he) (fun p hp => hrst p (List.mem_of_mem_take hp)) hcs
    (haccepted ▸ map_decode_encode hwf) hrun
  refine ⟨⟨t, hrun, hports, ⟨by simp [hports], ht⟩, hfin.2.2.1⟩, hallowed, ?_⟩
  refine (observe_of_run hrun).trans ?_
  rw [hfin.status_eq, hresp]
  rfl

end Sys2Proof.Certificates.Slice0
end
